-- ==== Sys2Proof/Word.lean ====
section
/-! DEFINITION. The words of the serializer (00_scope.md R10, R11, R15): channel bytes, pixels, the
40-bit command word, the 32-bit response word, and the wire's three conditions. -/

namespace Sys2Proof

/-- One channel value, 8 bits unsigned (R10). -/
abbrev Byte := BitVec 8

/-- One command word (30_encoding.md R90). -/
abbrev Word := BitVec 40

/-- One response word (30_encoding.md R96). -/
abbrev RspWord := BitVec 32

/-- A pixel `(r, g, b)`: red, green, blue, the accessor order and not the wire order (R15). -/
structure Pixel where
  r : Byte
  g : Byte
  b : Byte
deriving DecidableEq, Repr, Inhabited

/-- The pixel `(0, 0, 0)`. -/
def Pixel.black : Pixel := ⟨0, 0, 0⟩

/-- `CHAN`: which byte of a cell comes next, in wire order: 0 green, 1 red, 2 blue (10_state.md R28). -/
inductive Chan where
  | green
  | red
  | blue
deriving DecidableEq, Repr

/-- The number the spec writes for a value of `CHAN` (10_state.md R28). -/
def Chan.code : Chan → Nat
  | .green => 0
  | .red => 1
  | .blue => 2

/-- `chan(p, c)` of 20_memory.md R70. -/
def Pixel.channel (p : Pixel) : Chan → Byte
  | .green => p.g
  | .red => p.r
  | .blue => p.b

/-- The level the LED chain sees (10_state.md R41): driven high, driven low, undriven. -/
inductive Line where
  | h
  | l
  | z
deriving DecidableEq, Repr

end Sys2Proof
end

