-- ==== Sys2Proof/Config.lean ====
section
/-! DEFINITION. What is fixed at construction (00_scope.md R8), and the model's one free value. -/

namespace Sys2Proof

/-- The construction-time parameters of R8 that vary. The derived ones are functions below. -/
structure Config where
  /-- `N`, cells in the pixel store and in a frame. -/
  n : Nat
  /-- `SYM_TICKS`, clock ticks in one symbol window. -/
  symTicks : Nat
  /-- `SHORT_TICKS`, length of the short sub-period. -/
  shortTicks : Nat
  /-- `LONG_TICKS`, length of the long sub-period. -/
  longTicks : Nat
  /-- `LATCH_TICKS`, ticks the gap generator holds the line low. -/
  latchTicks : Nat
  /-- `QDEPTH`, capacity of the byte queue. -/
  qDepth : Nat
  /-- `L`, LEDs in the observed chain; not in the block. -/
  chainLen : Nat
deriving DecidableEq, Repr

/-- The defaults of R8. -/
def Config.default : Config where
  n := 25
  symTicks := 10
  shortTicks := 3
  longTicks := 7
  latchTicks := 400
  qDepth := 4
  chainLen := 25

/-- `SYM_RATE_HZ`, fixed (R8). -/
def symRateHz : Nat := 800000

/-- `T_SYM_NS`, fixed (R8). -/
def tSymNs : Nat := 1250

/-- `LATCH_MIN_NS`, fixed (R8). -/
def latchMinNs : Nat := 50000

/-- `JITTER_TOL_NS` (R8): a premise on the clock (42_transmit_engine.md R174); no step reads it. -/
def jitterTolNs : Nat := 150

/-- `F_CLK_HZ` (R8). -/
def Config.fClkHz (c : Config) : Nat := symRateHz * c.symTicks

/-- `T_TICK_NS` (R8), exact: 62.5 ns for 20 ticks a symbol. -/
def Config.tickNs (c : Config) : Rat := (tSymNs : Rat) / c.symTicks

/-- FREE VALUE: the colours `SHOWN` where the spec leaves them unconstrained (43_wire_protocol_observer.md
R206, R211; 93_implementation_defined.md U8, U15, U16). No body: nothing can be proved of a value of it.
Log entry 9. -/
opaque Config.freeColour : Nat → Pixel

end Sys2Proof
end

