-- ==== Sys2Proof/Syntax.lean ====
section
/-! DEFINITION. The commands (30_encoding.md R93) and the lines of a test program (R100, R101). -/

namespace Sys2Proof

/-- The six commands, one constructor per row of the opcode table. A field is exactly as wide as its
field of the word (R90), so every term is well-formed. -/
inductive Instr where
  | init
  | write
  | setPix (idx r g b : Byte)
  | clear
  | get (idx : Byte)
  | stat
deriving DecidableEq, Repr

/-- One line of a test program before its operands are checked: the commands of R100, the
pseudo-commands and directives of R101. -/
inductive Asm where
  | init
  | write
  | setPix (idx r g b : Nat)
  | clear
  | get (idx : Nat)
  | stat
  | setRgb (idx rgb : Nat)
  | red (idx : Nat)
  | green (idx : Nat)
  | black (idx : Nat)
  | wait (n : Nat)
  | env (avail : Bool)
  | rst
  | rstAt (edge : Nat)
deriving DecidableEq, Repr

end Sys2Proof
end

