-- ==== Sys2Proof/WellFormed.lean ====
section
/-! DEFINITION. The checks made before a run: a configuration (00_scope.md R9) and the operands of a
program line (30_encoding.md R100). A command needs none: its fields have the widths of the word. -/

namespace Sys2Proof

/-- The constraints of R9. The two on nanoseconds are multiplied out by `SYM_TICKS`; `T_TICK_NS` being
derived (`Config.tickNs`), `T_TICK_NS * SYM_TICKS = T_SYM_NS` holds of itself. -/
abbrev Config.Valid (c : Config) : Prop :=
  1 ≤ c.n ∧ c.n ≤ 256 ∧
  c.shortTicks + c.longTicks = c.symTicks ∧
  1 ≤ c.shortTicks ∧ c.shortTicks < c.longTicks ∧
  latchMinNs * c.symTicks ≤ c.latchTicks * tSymNs ∧
  c.symTicks < c.latchTicks ∧
  1 ≤ c.qDepth

/-- R100: `idx`, `r`, `g`, `b` must each be in 0 to 255; R101: `0xRRGGBB` has 24 bits. An index is not
compared with `N` here. -/
def Asm.wf : Asm → Bool
  | .setPix idx r g b => decide (idx < 256 ∧ r < 256 ∧ g < 256 ∧ b < 256)
  | .get idx => decide (idx < 256)
  | .setRgb idx rgb => decide (idx < 256 ∧ rgb < 16777216)
  | .red idx => decide (idx < 256)
  | .green idx => decide (idx < 256)
  | .black idx => decide (idx < 256)
  | .init | .write | .clear | .stat | .wait _ | .env _ | .rst | .rstAt _ => true

end Sys2Proof
end

