-- ==== Sys2Proof/Decode.lean ====
section
/-! DEFINITION. The decoder and the encoder (30_encoding.md R90 to R95, opcode_table.json). -/

namespace Sys2Proof

/-- Why a word is illegal (R94): (a) its opcode is none of the six; (b), (c) a reserved field of its
format is not zero. -/
inductive Illegal where
  | unknownOp
  | reservedNonzero
deriving DecidableEq, Repr

/-- `op = w[39:32]` (R90). -/
def fieldOp (w : Word) : Byte := w.extractLsb' 32 8

/-- `idx = w[31:24]` (R90). -/
def fieldIdx (w : Word) : Byte := w.extractLsb' 24 8

/-- `r = w[23:16]` (R90). -/
def fieldR (w : Word) : Byte := w.extractLsb' 16 8

/-- `g = w[15:8]` (R90). -/
def fieldG (w : Word) : Byte := w.extractLsb' 8 8

/-- `b = w[7:0]` (R90). -/
def fieldB (w : Word) : Byte := w.extractLsb' 0 8

/-- Format `F0` (R91): legal when `w[31:0] = 0`. -/
def formF0 (w : Word) (i : Instr) : Except Illegal Instr :=
  if w.extractLsb' 0 32 = 0#32 then .ok i else .error .reservedNonzero

/-- Format `FI` (R91): legal when `w[23:0] = 0`. -/
def formFI (w : Word) (i : Instr) : Except Illegal Instr :=
  if w.extractLsb' 0 24 = 0#24 then .ok i else .error .reservedNonzero

/-- The decoder: total, from the word alone (R95). -/
def decode (w : Word) : Except Illegal Instr :=
  if fieldOp w = 0x01#8 then formF0 w .init
  else if fieldOp w = 0x02#8 then formF0 w .write
  else if fieldOp w = 0x03#8 then .ok (.setPix (fieldIdx w) (fieldR w) (fieldG w) (fieldB w))
  else if fieldOp w = 0x04#8 then formF0 w .clear
  else if fieldOp w = 0x05#8 then formFI w (.get (fieldIdx w))
  else if fieldOp w = 0x06#8 then formF0 w .stat
  else .error .unknownOp

/-- `{op, idx, r, g, b}` (R90). -/
def assembleWord (op idx r g b : Byte) : Word := op ++ idx ++ r ++ g ++ b

/-- The encoder (R93). -/
def encode : Instr → Word
  | .init => assembleWord 0x01 0 0 0 0
  | .write => assembleWord 0x02 0 0 0 0
  | .setPix idx r g b => assembleWord 0x03 idx r g b
  | .clear => assembleWord 0x04 0 0 0 0
  | .get idx => assembleWord 0x05 idx 0 0 0
  | .stat => assembleWord 0x06 0 0 0 0

/-- One row of the opcode map (R93): a word `w` selects it when `w & mask = match`. -/
structure OpRow where
  mnemonic : String
  pattern : Word
  mask : Word
deriving DecidableEq, Repr

/-- The opcode map (R93). -/
def opcodeMap : List OpRow := [
  ⟨"INIT", 0x0100000000, 0xFFFFFFFFFF⟩,
  ⟨"WRITE", 0x0200000000, 0xFFFFFFFFFF⟩,
  ⟨"SETPIX", 0x0300000000, 0xFF00000000⟩,
  ⟨"CLEAR", 0x0400000000, 0xFFFFFFFFFF⟩,
  ⟨"GET", 0x0500000000, 0xFF00FFFFFF⟩,
  ⟨"STAT", 0x0600000000, 0xFFFFFFFFFF⟩]

/-- `w & mask = match` (R93). -/
def OpRow.selects (row : OpRow) (w : Word) : Bool := w &&& row.mask == row.pattern

/-- The mnemonic of a command's row (R93). -/
def Instr.mnemonic : Instr → String
  | .init => "INIT"
  | .write => "WRITE"
  | .setPix _ _ _ _ => "SETPIX"
  | .clear => "CLEAR"
  | .get _ => "GET"
  | .stat => "STAT"

/-- What the decoder reads from a word whose low `nbits` bits are those of `w`, numbered as the table
numbers them (bit 0 the least significant of the one 40-bit word), all higher bits zero. -/
def decodeTableWord (nbits w : Nat) : Option Instr :=
  match decode (BitVec.ofNat 40 (w % 2 ^ nbits)) with
  | .ok i => some i
  | .error _ => none

end Sys2Proof
end

