-- ==== Sys2Proof/Machine/State.lean ====
section
/-! DEFINITION. The state as plain data: the block's tuple (10_state.md R20 to R33), and around it the
configuration, the input ports with the host that drives them, and the LED chain that observes the wire;
the stop reasons; the state after reset. -/

namespace Sys2Proof.Machine

/-- `MODE`: which arm of the step function runs at the next edge (10_state.md R26). -/
inductive Mode where
  | idle
  | clr
  | frame
  | gap
deriving DecidableEq, Repr

/-- The input ports as sampled at an edge (10_state.md R38; the clock is the step itself). -/
structure Pins where
  rst : Bool
  cmdValid : Bool
  cmdData : Word
  /-- Read only by `INIT`, at the edge that accepts it. -/
  chanAvail : Bool
deriving DecidableEq, Repr

/-- What the host and the environment do next (30_encoding.md R101, R102; 70_reset_and_hazards.md R267). -/
inductive HostItem where
  /-- Offer a word from the first period with `cmd_ready = 1` and hold it until it is accepted (R102,
  R267 (a)). -/
  | offer (w : Word)
  /-- `WAIT n`: offer nothing for `n` edges at which a command could have been accepted (R101). -/
  | wait (n : Nat)
  /-- `ENV chan_avail = v` (R101). -/
  | env (avail : Bool)
  /-- `RST`: one edge with `rst = 1` (R101). -/
  | rst
  /-- One edge with exactly these levels: a host that keeps no duty of R267. Of them only the level of
  `chan_avail` outlasts the edge, until the next item that sets it (DESIGN CHOICE, log entry 4). -/
  | edge (pins : Pins)
deriving DecidableEq, Repr

/-- Where the observer of the wire stands (43_wire_protocol_observer.md R207, R211). -/
inductive Watch where
  /-- The wire is undriven: no observation. -/
  | off
  /-- A driven waveform is being decoded. -/
  | on
  /-- The waveform broke R211: it has no meaning until the wire is undriven again. -/
  | noMeaning
deriving DecidableEq, Repr

/-- The LED chain (R206) with its decoder (R207), one period at a time. -/
structure Chain where
  watch : Watch
  /-- Length so far of the run of `H` in progress, 0 in a run of `L`. -/
  high : Nat
  /-- Length so far of the run of `L` in progress, 0 in a run of `H`. -/
  low : Nat
  /-- Length of the last completed run of `H`. -/
  pulse : Nat
  /-- The bits of the burst in progress, in time order. -/
  bits : List Bool
  /-- `SHOWN`, LED 0 first. -/
  shown : List Pixel
  /-- How many free colours have been drawn (the model's own; log entry 9). -/
  drawn : Nat
deriving DecidableEq, Repr

/-- The pixel store: (address, byte) pairs; channel `c` of cell `i` lies at address `3 i + c`, `c` being
0 red, 1 green, 2 blue (unobservable, 10_state.md R21; log entry 5). An unlisted address reads 0, the
reset contents (10_state.md R42). -/
abbrev Memory := List Host.Cell

/-- The canonical form: addresses strictly rising, no entry equal to what an unlisted address reads. -/
abbrev Memory.wf (m : Memory) : Prop :=
  m.Pairwise (fun a b => a.1 < b.1) ∧ ∀ c ∈ m, c.2 ≠ 0#8

/-- The whole machine. -/
structure State where
  /-- The construction-time parameters; no step changes them (10_state.md R20). -/
  cfg : Config
  /-- `PIX` (R21). -/
  pix : Memory
  /-- `INITD` (R22). -/
  initd : Bool
  /-- `FATAL` (R23). -/
  fatal : Bool
  /-- `IDXF` (R24). -/
  idxf : Bool
  /-- `ILLF` (R24). -/
  illf : Bool
  /-- `SEQF` (R24). -/
  seqf : Bool
  /-- `MODE` (R26). -/
  mode : Mode
  /-- `CLRIDX` (R27). -/
  clrIdx : Nat
  /-- `CELL` (R28). -/
  cell : Nat
  /-- `CHAN` (R28). -/
  chan : Chan
  /-- `Q`, oldest entry first (R32). -/
  q : List Byte
  /-- `SHIFTING` (R31). -/
  shifting : Bool
  /-- `SR` (R31). -/
  sr : Byte
  /-- `NBIT` (R29). -/
  nbit : Nat
  /-- `TCNT` (R29). -/
  tcnt : Nat
  /-- `GAPCNT` (R30). -/
  gapCnt : Nat
  /-- `RSPV` (R33). -/
  rspv : Bool
  /-- `RSPD` (R33). -/
  rspd : RspWord
  /-- The levels of the input ports at the next edge (R38). -/
  pins : Pins
  /-- The host keeps its offer on the port until it is accepted (70_reset_and_hazards.md R267). -/
  hold : Bool
  /-- What the host does after that. -/
  script : List HostItem
  /-- The edges of the directives `RST @e` (30_encoding.md R101). -/
  rstAt : List Nat
  /-- The number of the next edge (00_scope.md R13), 0 until an edge with `rst = 0` has been
  (70_reset_and_hazards.md R263). -/
  edge : Nat
  /-- The observer (43_wire_protocol_observer.md section 2). -/
  chain : Chain
deriving DecidableEq, Repr

/-- Why the machine stops with a fault. The faults of COMMANDS (60_exceptions.md R220) are none of these:
they are next states. -/
inductive Fault where
  /-- Raised by `withPixel` and `storePixel` when the cell is not in `0 .. N-1`, which 00_scope.md R12 says
  never happens. Safe: no state that meets the invariant reaches it. -/
  | unmappedCell
deriving DecidableEq, Repr

/-- Why a step has no meaning. -/
inductive Refusal where
  /-- Raised by an arm of `exec` that has no meaning yet. Safe. No arm does. -/
  | notModelled (mnemonic : String)
  /-- Raised by `step` when the configuration breaks 00_scope.md R9: there is no run. Safe. -/
  | badConfig
deriving DecidableEq, Repr

/-- Nothing offered, no reset, `chan_avail` as given. -/
def Pins.quiet (avail : Bool) : Pins := ⟨false, false, 0, avail⟩

/-- The machine at power-on, which is the reset state (10_state.md R42), with the default parameters,
quiet ports and an observer that has seen nothing driven. -/
def State.reset : State where
  cfg := Config.default
  pix := []
  initd := false
  fatal := false
  idxf := false
  illf := false
  seqf := false
  mode := .idle
  clrIdx := 0
  cell := 0
  chan := .green
  q := []
  shifting := false
  sr := 0
  nbit := 0
  tcnt := 0
  gapCnt := 0
  rspv := false
  rspd := 0
  pins := .quiet true
  hold := false
  script := []
  rstAt := []
  edge := 0
  chain := {
    watch := .off
    high := 0
    low := 0
    pulse := 0
    bits := []
    shown := (List.range Config.default.chainLen).map Config.freeColour
    drawn := Config.default.chainLen }

end Sys2Proof.Machine
end

