-- ==== Sys2Proof/Machine/Flags.lean ====
section
/-! DEFINITION. The status flags, the `STATUS` byte, and the command faults with their codes and flags
(10_state.md R22 to R25, R34; 30_encoding.md R97; 60_exceptions.md R220). -/

namespace Sys2Proof.Machine

/-- The faults of R220, in the order of their codes. -/
inductive CmdFault where
  | index
  | noChan
  | illegal
  | notInit
  | reinit
deriving DecidableEq, Repr

/-- The response code `OK` (R97). -/
def okCode : Byte := 0x00

/-- The response code of a fault (R97, R220). -/
def faultCode : CmdFault → Byte
  | .index => 0x01
  | .noChan => 0x02
  | .illegal => 0x03
  | .notInit => 0x04
  | .reinit => 0x05

/-- Sets the flag of a fault (R220); it may already be 1 (R224). -/
def setFaultFlag (f : CmdFault) (s : State) : State :=
  match f with
  | .index => { s with idxf := true }
  | .noChan => { s with fatal := true }
  | .illegal => { s with illf := true }
  | .notInit => { s with seqf := true }
  | .reinit => { s with seqf := true }

/-- `BUSY`: not a register (10_state.md R25). -/
def busy (s : State) : Bool := s.mode ≠ .idle

/-- `STATUS` (10_state.md R34, R40): bit 7 first `{0, 0, BUSY, SEQF, ILLF, IDXF, FATAL, INITD}`. -/
def status (s : State) : Byte :=
  0#2 ++ BitVec.ofBool (busy s) ++ BitVec.ofBool s.seqf ++ BitVec.ofBool s.illf
    ++ BitVec.ofBool s.idxf ++ BitVec.ofBool s.fatal ++ BitVec.ofBool s.initd

end Sys2Proof.Machine
end

