-- ==== Sys2Proof/Machine/Ops.lean ====
section
/-! DEFINITION. The named operations: bytes and pixels of the store, the response register, raising a
command fault (the one way an exception is taken), the reset edge (the one way out of the fatal one). -/

namespace Sys2Proof.Machine

/-- Goes on with the next state, if there is one. -/
def onNext (o : Host.Outcome State Fault Refusal) (k : State → Host.Outcome State Fault Refusal) :
    Host.Outcome State Fault Refusal :=
  match o with
  | .next s => k s
  | .fault r => .fault r
  | .refused r => .refused r

/-! ### The pixel store -/

/-- The byte at an address; 0 where nothing is listed (10_state.md R42). -/
def readByte : Memory → Nat → Byte
  | [], _ => 0
  | (k, v) :: m, a => if k = a then v else readByte m a

/-- Puts an entry in front, unless it says what an unlisted address says. -/
def consCell (a : Nat) (v : Byte) (m : Memory) : Memory :=
  if v = 0 then m else (a, v) :: m

/-- Writes one byte, keeping the canonical form. -/
def writeByte : Memory → Nat → Byte → Memory
  | [], a, v => consCell a v []
  | (k, w) :: m, a, v =>
    if a < k then consCell a v ((k, w) :: m)
    else if a = k then consCell a v m
    else (k, w) :: writeByte m a v

/-- Where a channel of cell `i` lies (log entry 5). -/
def channelAddr (i : Nat) : Chan → Nat
  | .red => 3 * i
  | .green => 3 * i + 1
  | .blue => 3 * i + 2

/-- The pixel of cell `i`. -/
def readPixel (m : Memory) (i : Nat) : Pixel where
  r := readByte m (channelAddr i .red)
  g := readByte m (channelAddr i .green)
  b := readByte m (channelAddr i .blue)

/-- Replaces the pixel of cell `i`. -/
def writePixel (m : Memory) (i : Nat) (p : Pixel) : Memory :=
  writeByte (writeByte (writeByte m (channelAddr i .red) p.r) (channelAddr i .green) p.g)
    (channelAddr i .blue) p.b

/-- `MemRead(i)` (00_scope.md R12): goes on with the pixel of a mapped cell. -/
def withPixel (i : Nat) (s : State) (k : Pixel → Host.Outcome State Fault Refusal) :
    Host.Outcome State Fault Refusal :=
  if i < s.cfg.n then k (readPixel s.pix i) else .fault .unmappedCell

/-- `MemWrite(i, p)` (00_scope.md R12): all three channels of a mapped cell at once (20_memory.md R65). -/
def storePixel (i : Nat) (p : Pixel) (s : State) : Host.Outcome State Fault Refusal :=
  if i < s.cfg.n then .next { s with pix := writePixel s.pix i p } else .fault .unmappedCell

/-! ### The response register -/

/-- `{code, d2, d1, d0}` (30_encoding.md R96). -/
def rspWord (code d2 d1 d0 : Byte) : RspWord := code ++ d2 ++ d1 ++ d0

/-- `respond(code, d2, d1, d0)` (00_scope.md R12, 10_state.md R33). -/
def respond (code d2 d1 d0 : Byte) (s : State) : State :=
  { s with rspv := true, rspd := rspWord code d2 d1 d0 }

/-- `respond(OK, 0, 0, 0)`. -/
def respondOk (s : State) : State := respond okCode 0 0 0 s

/-- `RSPV <- 0 ; RSPD <- 0`: a response lasts one period (10_state.md R33, 42_transmit_engine.md R160). -/
def clearResponse (s : State) : State := { s with rspv := false, rspd := 0 }

/-! ### Taking an exception, and the way back -/

/-- Raises a command fault (60_exceptions.md R224, R231, R232): the fault's flag, its response with zero
data, and nothing else. Nothing is saved and control goes nowhere. With `ERR_NOCHAN` the flag is `FATAL`,
which closes the command port (`cmdReady`). -/
def raiseFault (f : CmdFault) (s : State) : State :=
  respond (faultCode f) 0 0 0 (setFaultFlag f s)

/-- An edge with `rst = 1` (10_state.md R42, 70_reset_and_hazards.md R260): the block's tuple becomes the
reset state. There is no return instruction (60_exceptions.md R233); this alone leaves the halted state.
The configuration, the ports, the host and the LED chain are not the block's. -/
def resetBlock (s : State) : State :=
  { State.reset with
    cfg := s.cfg
    pins := s.pins
    hold := s.hold
    script := s.script
    rstAt := s.rstAt
    edge := s.edge
    chain := s.chain }

/-! ### The ports -/

/-- `cmd_ready` (10_state.md R40). -/
def cmdReady (s : State) : Bool := s.mode = .idle && !s.fatal

/-- A command is accepted at the next edge (10_state.md R40). -/
def accepts (s : State) : Bool := !s.pins.rst && s.pins.cmdValid && cmdReady s

/-- `rsp_valid` (10_state.md R40). -/
def rspValid (s : State) : Bool := s.rspv

/-- `rsp_data` (10_state.md R40). -/
def rspData (s : State) : RspWord := s.rspd

/-- `HI(v)`: how long a symbol carrying `v` is high (10_state.md R40, 43_wire_protocol_observer.md R202). -/
def hiTicks (c : Config) (v : Bool) : Nat := if v then c.longTicks else c.shortTicks

/-- `dout_en` (10_state.md R40). -/
def doutEn (s : State) : Bool := s.initd

/-- `dout` (10_state.md R40). -/
def dout (s : State) : Bool := s.shifting && s.tcnt < hiTicks s.cfg s.sr.msb

/-- `line` (10_state.md R41). -/
def line (s : State) : Line :=
  if doutEn s then (if dout s then .h else .l) else .z

/-- The operating modes of 60_exceptions.md R236. -/
inductive OperatingMode where
  | uninit
  | ready
  | halted
deriving DecidableEq, Repr

/-- The operating mode, read off two flags (60_exceptions.md R236). -/
def operatingMode (s : State) : OperatingMode :=
  if s.fatal then .halted else if s.initd then .ready else .uninit

end Sys2Proof.Machine
end

