-- ==== Sys2Proof/Machine/Chain.lean ====
section
/-! DEFINITION. The LED chain as observer of the wire (43_wire_protocol_observer.md R206 to R211), one
period at a time. -/

namespace Sys2Proof.Machine

/-- Bits read as a number, the first one most significant (R208). -/
def bitsToNat (bits : List Bool) : Nat := bits.foldl (fun n b => 2 * n + b.toNat) 0

/-- Eight bits as a byte (R208). -/
def bitsToByte (bits : List Bool) : Byte := BitVec.ofNat 8 (bitsToNat bits)

/-- Twenty-four bits as a colour: green, red, blue (R208). -/
def bitsToPixel (bits : List Bool) : Pixel where
  g := bitsToByte (bits.take 8)
  r := bitsToByte ((bits.drop 8).take 8)
  b := bitsToByte ((bits.drop 16).take 8)

/-- What the chain shows after a burst (R206, R208): each LED consumes the first 24 bits and forwards the
remainder; an LED that gets fewer keeps its colour; bits past the last LED fall off. -/
def showBurst : List Bool → List Pixel → List Pixel
  | _, [] => []
  | bits, c :: leds =>
    if 24 ≤ bits.length then bitsToPixel (bits.take 24) :: showBurst (bits.drop 24) leds
    else c :: leds

/-- Every LED takes a fresh free colour: `SHOWN` is unconstrained (R206, R211; log entries 9, 10). -/
def freeColours (len : Nat) (c : Chain) : Chain :=
  { c with
    shown := (List.range len).map fun k => Config.freeColour (c.drawn + k)
    drawn := c.drawn + len }

/-- The observation has just (re)started: nothing decoded. -/
def restartWatch (w : Watch) (c : Chain) : Chain :=
  { c with watch := w, high := 0, low := 0, pulse := 0, bits := [] }

/-- The waveform is out of tolerance (R211). -/
def loseMeaning (cfg : Config) (c : Chain) : Chain :=
  freeColours cfg.chainLen (restartWatch .noMeaning c)

/-- The symbol that the next run of `H` ends had exactly its window (R211). Only after a whole frame of
`24 N` symbols (R203) may it have had more: that low is one between two frames, which merges them (R210;
log entry 11). -/
def symbolExact (cfg : Config) (c : Chain) : Bool :=
  c.pulse + c.low = cfg.symTicks ||
    (cfg.symTicks < c.pulse + c.low && c.bits.length % (24 * cfg.n) = 0)

/-- A period with the line high. A run of `H` may open a symbol only when the symbol before it in the
burst was exact, and is never longer than `LONG_TICKS` (R211). -/
def observeHigh (cfg : Config) (c : Chain) : Chain :=
  if c.high = 0 ∧ c.bits ≠ [] ∧ symbolExact cfg c = false then loseMeaning cfg c
  else if cfg.longTicks < c.high + 1 then loseMeaning cfg c
  else { c with high := c.high + 1, low := 0 }

/-- A run of `H` has ended: its bit, 1 if the run is longer than `SYM_TICKS / 2` periods (R207 (2)). -/
def endPulse (cfg : Config) (c : Chain) : Chain :=
  { c with
    high := 0
    pulse := c.high
    bits := c.bits ++ [decide (cfg.symTicks < 2 * c.high)] }

/-- One more period of low; at `LATCH_TICKS` of them the burst is latched (R207 (1), R208). -/
def lowPeriod (cfg : Config) (c : Chain) : Chain :=
  if c.low + 1 = cfg.latchTicks then
    { c with low := c.low + 1, shown := showBurst c.bits c.shown, bits := [] }
  else { c with low := c.low + 1 }

/-- A period with the line low. A run of `H` must have been one of the two lengths (R211). -/
def observeLow (cfg : Config) (c : Chain) : Chain :=
  if c.high = 0 then lowPeriod cfg c
  else if c.high = cfg.shortTicks ∨ c.high = cfg.longTicks then lowPeriod cfg (endPulse cfg c)
  else loseMeaning cfg c

/-- A driven period while observing. -/
def observeDriven (cfg : Config) (high : Bool) (c : Chain) : Chain :=
  if high then observeHigh cfg c else observeLow cfg c

/-- One period of the wire, seen by the chain (R207, R211). -/
def observe (cfg : Config) (level : Line) (c : Chain) : Chain :=
  match level with
  | .z => freeColours cfg.chainLen (restartWatch .off c)
  | .h | .l =>
    match c.watch with
    | .noMeaning => loseMeaning cfg c
    | .off => observeDriven cfg (level = .h) (restartWatch .on c)
    | .on => observeDriven cfg (level = .h) c

/-- The chain sees the period that follows an edge. -/
def observePeriod (s : State) : State :=
  { s with chain := observe s.cfg (line s) s.chain }

end Sys2Proof.Machine
end

