-- ==== Sys2Proof/Machine/Operands.lean ====
section
/-! DEFINITION. The operand forms: a cell index with its bounds check (30_encoding.md R92,
40_pixel_store_ops.md R121) and a pixel from three channel operands (R90, R91). Format `F0` has none. -/

namespace Sys2Proof.Machine

/-- `idx >= N`, as unsigned numbers, so that with `N = 256` every index is legal (R92, R121). -/
def indexIllegal (idx : Byte) (s : State) : Bool := s.cfg.n ≤ idx.toNat

/-- The bounds check shared by `SETPIX` and `GET` (R121): an illegal index raises `ERR_INDEX` and is never
clamped; a legal one goes on as a cell number. -/
def withCell (idx : Byte) (s : State) (k : Nat → Host.Outcome State Fault Refusal) :
    Host.Outcome State Fault Refusal :=
  if indexIllegal idx s then .next (raiseFault .index s) else k idx.toNat

/-- The pixel operand of `SETPIX`: stored as it is (R92, 20_memory.md R71). -/
def pixelOperand (r g b : Byte) : Pixel := ⟨r, g, b⟩

end Sys2Proof.Machine
end

