-- ==== Sys2Proof/Machine/PixelStore.lean ====
section
/-! DEFINITION. `SETPIX`, `CLEAR`, `GET` at their accepting edge, and the `CLR` arm
(40_pixel_store_ops.md). -/

namespace Sys2Proof.Machine

/-- `SETPIX idx, r, g, b` (R120 to R122). -/
def execSetPix (idx r g b : Byte) (s : State) : Host.Outcome State Fault Refusal :=
  withCell idx s fun i => onNext (storePixel i (pixelOperand r g b) s) fun t => .next (respondOk t)

/-- `CLEAR` (R125): cell 0 at this edge; the rest in the `CLR` arm. -/
def execClear (s : State) : Host.Outcome State Fault Refusal :=
  onNext (storePixel 0 .black s) fun t =>
    if s.cfg.n = 1 then .next (respondOk t) else .next { t with mode := .clr, clrIdx := 1 }

/-- `GET idx` (R130 to R132). -/
def execGet (idx : Byte) (s : State) : Host.Outcome State Fault Refusal :=
  withCell idx s fun i => withPixel i s fun p => .next (respond okCode p.r p.g p.b s)

/-- The `CLR` arm (R126). -/
def clrArm (s : State) : Host.Outcome State Fault Refusal :=
  onNext (storePixel s.clrIdx .black s) fun t =>
    if s.clrIdx = s.cfg.n - 1 then .next (respondOk { t with mode := .idle })
    else .next { t with clrIdx := s.clrIdx + 1 }

end Sys2Proof.Machine
end

