-- ==== Sys2Proof/Machine/Transmit.lean ====
section
/-! DEFINITION. `INIT`, `WRITE`, `STAT` at their accepting edge (41_transmit_ops.md). -/

namespace Sys2Proof.Machine

/-- `INIT` (R140 to R143), `chan_avail` as sampled at this edge. -/
def execInit (s : State) : Host.Outcome State Fault Refusal :=
  if s.initd then .next (raiseFault .reinit s)
  else if !s.pins.chanAvail then .next (raiseFault .noChan s)
  else .next { s with initd := true, mode := .gap, gapCnt := s.cfg.latchTicks }

/-- `WRITE` (R144, R146): the frame goes on in the `FRAME` arm. -/
def execWrite (s : State) : Host.Outcome State Fault Refusal :=
  if !s.initd then .next (raiseFault .notInit s)
  else .next { s with mode := .frame, cell := 0, chan := .green }

/-- `STAT` (R148). -/
def execStat (s : State) : Host.Outcome State Fault Refusal :=
  .next (respond okCode 0 (BitVec.ofNat 8 (s.cfg.n - 1)) (status s) s)

end Sys2Proof.Machine
end

