-- ==== Sys2Proof/Machine/Dispatch.lean ====
section
/-! DEFINITION. The command bodies, one arm per command (42_transmit_engine.md R162). -/

namespace Sys2Proof.Machine

def exec (i : Instr) (s : State) : Host.Outcome State Fault Refusal :=
  match i with
  | .init => Sys2Proof.Machine.execInit s
  | .write => Sys2Proof.Machine.execWrite s
  | .setPix idx r g b => Sys2Proof.Machine.execSetPix idx r g b s
  | .clear => Sys2Proof.Machine.execClear s
  | .get idx => Sys2Proof.Machine.execGet idx s
  | .stat => Sys2Proof.Machine.execStat s

end Sys2Proof.Machine
end

