-- ==== Sys2Proof/Machine/Engine.lean ====
section
/-! DEFINITION. The transmit engine: the `FRAME` and `GAP` arms (42_transmit_engine.md R163 to R167). -/

namespace Sys2Proof.Machine

/-- `serializer_advance` (R163). -/
def serializerAdvance (s : State) : State :=
  if s.shifting then
    if s.tcnt < s.cfg.symTicks - 1 then { s with tcnt := s.tcnt + 1 }
    else if 1 < s.nbit then { s with tcnt := 0, sr := s.sr <<< 1, nbit := s.nbit - 1 }
    else { s with tcnt := 0, shifting := false, nbit := 0, sr := 0 }
  else s

/-- `serializer_load` (R164). -/
def serializerLoad (s : State) : State :=
  match s.shifting, s.q with
  | false, byte :: rest => { s with sr := byte, q := rest, nbit := 8, tcnt := 0, shifting := true }
  | _, _ => s

/-- The converter's next position: `CHAN + 1`, or the next cell (R165). -/
def converterNext (s : State) : State :=
  match s.chan with
  | .green => { s with chan := .red }
  | .red => { s with chan := .blue }
  | .blue => { s with chan := .green, cell := s.cell + 1 }

/-- `converter_push` (R165): at most one byte, none while the queue is full. -/
def converterPush (s : State) : Host.Outcome State Fault Refusal :=
  if s.cell < s.cfg.n ∧ s.q.length < s.cfg.qDepth then
    withPixel s.cell s fun p => .next (converterNext { s with q := s.q ++ [p.channel s.chan] })
  else .next s

/-- `frame_end_check` (R166). -/
def frameEndCheck (s : State) : State :=
  if s.shifting = false ∧ s.q = [] ∧ s.cell = s.cfg.n then
    { s with mode := .gap, gapCnt := s.cfg.latchTicks }
  else s

/-- The `FRAME` arm: its four sub-steps in order (R160). -/
def frameArm (s : State) : Host.Outcome State Fault Refusal :=
  onNext (converterPush (serializerLoad (serializerAdvance s))) fun t => .next (frameEndCheck t)

/-- The `GAP` arm (R167). -/
def gapArm (s : State) : State :=
  if s.gapCnt - 1 = 0 then respondOk { s with gapCnt := 0, mode := .idle }
  else { s with gapCnt := s.gapCnt - 1 }

end Sys2Proof.Machine
end

