-- ==== Sys2Proof/Machine/Environment.lean ====
section
/-! DEFINITION. The host and the environment: what is on the input ports at the next edge
(30_encoding.md R101, R102; 70_reset_and_hazards.md R263, R267, R268). -/

namespace Sys2Proof.Machine

/-- What the host drives, whether it holds it until accepted, and what it does afterwards. -/
structure Drive where
  pins : Pins
  hold : Bool
  rest : List HostItem
deriving DecidableEq, Repr

/-- The host takes its next item. `ready`: the level of `cmd_ready` in this period; `idle`: no command is in
progress, so a command could be accepted at the coming edge but for `FATAL`; `avail`: the level of
`chan_avail`. A word is offered from the first period with `cmd_ready = 1`, and an empty script offers nothing
(R102). `WAIT` counts the edges with `idle` (R101); `RST` waits for one.
DESIGN CHOICE (log entry 4): an edge with `idle` that a directive `RST @e` takes, where nothing can be
accepted, counts among the `n` of `WAIT n`; the two descriptions that R101 gives of the first edge differ
there. -/
def driveNext (ready idle avail : Bool) : List HostItem → Drive
  | [] => ⟨.quiet avail, false, []⟩
  | .offer w :: rest =>
    if ready then ⟨⟨false, true, w, avail⟩, true, rest⟩ else ⟨.quiet avail, false, .offer w :: rest⟩
  | .wait 0 :: rest => driveNext ready idle avail rest
  | .wait (n + 1) :: rest =>
    ⟨.quiet avail, false, if idle then .wait n :: rest else .wait (n + 1) :: rest⟩
  | .env v :: rest => driveNext ready idle v rest
  | .rst :: rest =>
    if idle then ⟨{ Pins.quiet avail with rst := true }, false, rest⟩
    else ⟨.quiet avail, false, .rst :: rest⟩
  | .edge p :: rest => ⟨p, false, rest⟩

/-- The number of the edge after the coming one. Numbering starts at the first edge with `rst = 0`
(70_reset_and_hazards.md R263): as long as only edges with `rst = 1` have been, the next one is edge 0 still. -/
def nextEdge (s : State) : Nat := if s.edge = 0 ∧ s.pins.rst then 0 else s.edge + 1

/-- A directive `RST @e` names the edge after the coming one (R101).
DESIGN CHOICE (log entry 17): `RST @0`, which R263 leaves no edge to meet, is taken at the first edge of the
run (`placeScript`) and not again. -/
def rstDue (s : State) : Bool := nextEdge s ≠ s.edge && s.rstAt.contains (nextEdge s)

/-- Puts levels on the ports for edge `e`, with `rst = 1` if a directive is `due` there (R101). -/
def driveEdge (e : Nat) (due : Bool) (d : Drive) (s : State) : State :=
  { s with
    pins := { d.pins with rst := d.pins.rst || due }
    hold := d.hold
    script := d.rest
    edge := e }

/-- After an edge, the ports for the next one: an offer not yet accepted stays (R267 (a)), otherwise the
host takes its next item. `accepted`: the edge just past accepted a command.
DESIGN CHOICE (log entry 4): `chan_avail` keeps the level it had, also one that an item `edge p` gave it, until
the next item that sets it. -/
def hostAdvance (accepted : Bool) (s : State) : State :=
  driveEdge (nextEdge s) (rstDue s)
    (if s.hold && s.pins.cmdValid && !accepted then ⟨{ s.pins with rst := false }, true, s.script⟩
     else driveNext (cmdReady s) (s.mode = .idle) s.pins.chanAvail s.script)
    s

/-- A program placed before its edge 0 (R102): the host takes its first item. -/
def placeScript (script : List HostItem) (rstAt : List Nat) (s : State) : State :=
  driveEdge 0 (rstAt.contains 0) (driveNext (cmdReady s) (s.mode = .idle) s.pins.chanAvail script)
    { s with rstAt := rstAt }

/-- The engine and the port at rest, if they are not: no command in progress and no halt. What a command
must find to be accepted at the very next edge. -/
def makeReady (s : State) : State :=
  if cmdReady s then s
  else { s with
    fatal := false, mode := .idle, q := [], shifting := false, sr := 0, nbit := 0, tcnt := 0, gapCnt := 0 }

/-- A command word on the port, to be accepted at the very next edge. -/
def placeWord (w : Word) (s : State) : State :=
  let t := makeReady s
  { t with pins := { t.pins with rst := false, cmdValid := true, cmdData := w }, hold := true }

end Sys2Proof.Machine
end

