-- ==== Sys2Proof/Machine/Edge.lean ====
section
/-! DEFINITION. One clock edge of the block (42_transmit_engine.md R160, R162), and what the host and the
chain do around it. -/

namespace Sys2Proof.Machine

/-- `execute` (R162): the legality check comes first. -/
def execute (w : Word) (s : State) : Host.Outcome State Fault Refusal :=
  match decode w with
  | .ok i => exec i s
  | .error _ => .next (raiseFault .illegal s)

/-- The `IDLE` arm (R160): acceptance. -/
def idleArm (s : State) : Host.Outcome State Fault Refusal :=
  if s.pins.cmdValid ∧ s.fatal = false then execute s.pins.cmdData s else .next s

/-- The arm of the current mode (R160). -/
def modeArm (s : State) : Host.Outcome State Fault Refusal :=
  match s.mode with
  | .idle => idleArm s
  | .clr => clrArm s
  | .frame => frameArm s
  | .gap => .next (gapArm s)

/-- The block at one edge (R160). -/
def clockEdge (s : State) : Host.Outcome State Fault Refusal :=
  if s.pins.rst then .next (resetBlock s) else modeArm (clearResponse s)

/-- After the edge: the chain sees the new period, and the host sets the ports for the next edge. -/
def afterEdge (accepted : Bool) (s : State) : State := hostAdvance accepted (observePeriod s)

/-- One edge of the whole machine. A configuration that breaks 00_scope.md R9 has no run. -/
def machineEdge (s : State) : Host.Outcome State Fault Refusal :=
  if s.cfg.Valid then onNext (clockEdge s) fun t => .next (afterEdge (accepts s) t)
  else .refused .badConfig

end Sys2Proof.Machine
end

