-- ==== Sys2Proof/Machine/Step.lean ====
section
/-! DEFINITION. One step is one clock edge; and a command placed on the port for the next one. -/

namespace Sys2Proof.Machine

/-- One clock edge (00_scope.md R13). -/
def step (s : State) : Host.Outcome State Fault Refusal := machineEdge s

/-- `s` with the command word whose low `nbits` bits are `w` offered at the next edge, where it will be
accepted. -/
def State.withFetchWord (s : State) (nbits w : Nat) : State :=
  placeWord (BitVec.ofNat 40 (w % 2 ^ nbits)) s

end Sys2Proof.Machine
end

