-- ==== Sys2Proof/Machine/Assembler.lean ====
section
/-! DEFINITION. Test programs: the textual syntax (30_encoding.md R100), the pseudo-commands and directives
(R101), and a program placed on the machine for the reference host (R102). Text is a list of characters. -/

namespace Sys2Proof.Machine

/-- The script of a program, and the edges of its `RST @e` directives. -/
structure Program where
  items : List HostItem
  rstAt : List Nat
deriving DecidableEq, Repr

/-- The one command a line stands for (R100, R101), with its operands taken modulo their width; `none` for
a directive. -/
def asmInstr : Asm → Option Instr
  | .init => some .init
  | .write => some .write
  | .setPix i r g b =>
    some (.setPix (BitVec.ofNat 8 i) (BitVec.ofNat 8 r) (BitVec.ofNat 8 g) (BitVec.ofNat 8 b))
  | .clear => some .clear
  | .get i => some (.get (BitVec.ofNat 8 i))
  | .stat => some .stat
  | .setRgb i v =>
    some (.setPix (BitVec.ofNat 8 i) (BitVec.ofNat 8 (v / 65536)) (BitVec.ofNat 8 (v / 256 % 256))
      (BitVec.ofNat 8 (v % 256)))
  | .red i => some (.setPix (BitVec.ofNat 8 i) 255 0 0)
  | .green i => some (.setPix (BitVec.ofNat 8 i) 0 255 0)
  | .black i => some (.setPix (BitVec.ofNat 8 i) 0 0 0)
  | .wait _ | .env _ | .rst | .rstAt _ => none

/-- The word of a line: refused when an operand has no encoding (R100). -/
def asmWord (a : Asm) : Option Word :=
  if a.wf then (asmInstr a).map encode else none

/-- One line in front of a program. -/
def asmLine (a : Asm) (p : Program) : Option Program :=
  match a with
  | .wait n => some { p with items := .wait n :: p.items }
  | .env v => some { p with items := .env v :: p.items }
  | .rst => some { p with items := .rst :: p.items }
  | .rstAt e => some { p with rstAt := e :: p.rstAt }
  | .init | .write | .setPix _ _ _ _ | .clear | .get _ | .stat | .setRgb _ _ | .red _ | .green _
  | .black _ => (asmWord a).map fun w => { p with items := .offer w :: p.items }

/-- A program from its lines. -/
def assemble : List Asm → Option Program
  | [] => some ⟨[], []⟩
  | a :: as => (assemble as).bind (asmLine a)

/-! ### Text -/

/-- A token of a line. -/
inductive Tok where
  | word (chars : List Char)
  | comma
  | equals
  | at
deriving DecidableEq, Repr

/-- Ends the word in progress (kept last character first). -/
def endWord (acc : List Char) (toks : List Tok) : List Tok :=
  if acc = [] then toks else .word acc.reverse :: toks

/-- The tokens of a line; `;` starts a comment (R100). -/
def tokens (acc : List Char) : List Char → List Tok
  | [] => endWord acc []
  | c :: cs =>
    if c = ';' then endWord acc []
    else if c = ' ' ∨ c = '\t' then endWord acc (tokens [] cs)
    else if c = ',' then endWord acc (.comma :: tokens [] cs)
    else if c = '=' then endWord acc (.equals :: tokens [] cs)
    else if c = '@' then endWord acc (.at :: tokens [] cs)
    else tokens (c :: acc) cs

/-- The value of a digit below 16. -/
def digitValue (c : Char) : Option Nat :=
  if '0' ≤ c ∧ c ≤ '9' then some (c.toNat - 48)
  else if 'a' ≤ c ∧ c ≤ 'f' then some (c.toNat - 87)
  else if 'A' ≤ c ∧ c ≤ 'F' then some (c.toNat - 55)
  else none

/-- Digits in a base, after `n`. -/
def digits (base n : Nat) : List Char → Option Nat
  | [] => some n
  | c :: cs =>
    match digitValue c with
    | some d => if d < base then digits base (base * n + d) cs else none
    | none => none

/-- A number: decimal, or hexadecimal with `0x` (R100). -/
def number : List Char → Option Nat
  | [] => none
  | ['0', 'x'] => none
  | '0' :: 'x' :: cs => digits 16 0 cs
  | c :: cs => digits 10 0 (c :: cs)

/-- A line without operands. -/
def bareLine (m : List Char) : Option Asm :=
  if m = "INIT".toList then some .init
  else if m = "WRITE".toList then some .write
  else if m = "CLEAR".toList then some .clear
  else if m = "STAT".toList then some .stat
  else if m = "RST".toList then some .rst
  else none

/-- A line with one operand. -/
def unaryLine (m : List Char) (n : Nat) : Option Asm :=
  if m = "GET".toList then some (.get n)
  else if m = "RED".toList then some (.red n)
  else if m = "GREEN".toList then some (.green n)
  else if m = "BLACK".toList then some (.black n)
  else if m = "WAIT".toList then some (.wait n)
  else none

/-- `ENV chan_avail = v` (R101). -/
def envLine (m port : List Char) (v : Nat) : Option Asm :=
  if m = "ENV".toList ∧ port = "chan_avail".toList then
    if v = 0 then some (.env false) else if v = 1 then some (.env true) else none
  else none

/-- The line its tokens make (R100, R101). -/
def parseTokens : List Tok → Option Asm
  | [.word m] => bareLine m
  | [.word m, .word a] => (number a).bind (unaryLine m)
  | [.word m, .at, .word a] => if m = "RST".toList then (number a).map .rstAt else none
  | [.word m, .word port, .equals, .word v] => (number v).bind (envLine m port)
  | [.word m, .word i, .comma, .word v] =>
    if m = "SETRGB".toList then
      (number i).bind fun i => (number v).map fun v => .setRgb i v
    else none
  | [.word m, .word i, .comma, .word r, .comma, .word g, .comma, .word b] =>
    if m = "SETPIX".toList then
      (number i).bind fun i => (number r).bind fun r => (number g).bind fun g =>
        (number b).map fun b => .setPix i r g b
    else none
  | _ => none

/-- One line of text: nothing (blank, or a comment alone), a line, or refused. -/
def parseLine (text : List Char) : Option (Option Asm) :=
  match tokens [] text with
  | [] => some none
  | toks => (parseTokens toks).map some

/-- A program placed on the machine before edge 0 (R102). -/
def loadProgram (p : Program) (s : State) : State := placeScript p.items p.rstAt s

end Sys2Proof.Machine
end

