-- ==== Sys2Proof/Machine/Wire.lean ====
section
/-! DEFINITION. What a frame is, as formulas (20_memory.md R70), and the waveform of a `WRITE` as a function
of the store and the parameters alone (41_transmit_ops.md R145; 43_wire_protocol_observer.md R202, R205).
No step reads these: claims do. -/

namespace Sys2Proof.Machine

/-- The channel of byte `k` of a cell, in wire order (20_memory.md R68). -/
def wireChannel (k : Nat) : Chan :=
  if k = 0 then .green else if k = 1 then .red else .blue

/-- `FB[k] = chan(PIX[k div 3], k mod 3)` (R70). -/
def frameByte (m : Memory) (k : Nat) : Byte :=
  (readPixel m (k / 3)).channel (wireChannel (k % 3))

/-- `FBIT[j] = FB[j div 8][7 - (j mod 8)]` (R70). -/
def frameBit (m : Memory) (j : Nat) : Bool := (frameByte m (j / 8)).getLsbD (7 - j % 8)

/-- The first `len` bits of the frame, in the order sent. -/
def frameBits (m : Memory) (len : Nat) : List Bool := (List.range len).map (frameBit m)

/-- The level in period `k` of a symbol carrying `v` (43_wire_protocol_observer.md R202). -/
def symbolLevel (c : Config) (v : Bool) (k : Nat) : Line := if k < hiTicks c v then .h else .l

/-- `Sym(v)`: its levels, period by period (R202). -/
def symbolLine (c : Config) (v : Bool) : List Line :=
  (List.range c.symTicks).map (symbolLevel c v)

/-- Ticks of the symbols of one frame (42_transmit_engine.md R172). -/
def frameTicks (c : Config) : Nat := 24 * c.n * c.symTicks

/-- Edges from the acceptance of a `WRITE` to its response (70_reset_and_hazards.md R280). -/
def writeTicks (c : Config) : Nat := 2 + frameTicks c + c.latchTicks

/-- The line in period `t + k` of a `WRITE` accepted at edge `t` (41_transmit_ops.md R145). -/
def writeLevel (c : Config) (m : Memory) (k : Nat) : Line :=
  if k < 2 then .l
  else if k < 2 + frameTicks c then
    symbolLevel c (frameBit m ((k - 2) / c.symTicks)) ((k - 2) % c.symTicks)
  else .l

/-- `MODE` in period `t + k` of a `WRITE` accepted at edge `t` (41_transmit_ops.md R145). -/
def writeMode (c : Config) (k : Nat) : Mode :=
  if k < 2 + frameTicks c then .frame else if k < writeTicks c then .gap else .idle

end Sys2Proof.Machine
end

