-- ==== Sys2Proof/Machine/Transaction.lean ====
section
/-! DEFINITION. The transaction level: the table of 41_transmit_ops.md R150, row by row. It is written from
the table and calls no command body; that the tick level agrees with it (00_scope.md R16) is a claim. -/

namespace Sys2Proof.Machine

/-- What a command does to the wire (R150). -/
inductive WireEvent where
  /-- `Low(n)`: the line is driven low for `n` periods. -/
  | low (n : Nat)
  /-- `Sym(v)`: one symbol carrying `v`. -/
  | sym (v : Bool)
deriving DecidableEq, Repr

/-- One row of R150, applied: the state but for its hidden registers and its response, the response, the
wire events, and the edges from acceptance to the response. -/
structure Txn where
  after : State
  rsp : RspWord
  wire : List WireEvent
  edges : Nat
deriving DecidableEq, Repr

/-- The table of R150 for a word accepted in state `s`; rows are tried top to bottom. -/
def transact (w : Word) (s : State) : Txn :=
  match decode w with
  | .error _ => ⟨{ s with illf := true }, 0x03000000, [], 0⟩
  | .ok .init =>
    if s.initd then ⟨{ s with seqf := true }, 0x05000000, [], 0⟩
    else if s.pins.chanAvail = false then ⟨{ s with fatal := true }, 0x02000000, [], 0⟩
    else ⟨{ s with initd := true }, 0x00000000, [.low s.cfg.latchTicks], s.cfg.latchTicks⟩
  | .ok .write =>
    if s.initd = false then ⟨{ s with seqf := true }, 0x04000000, [], 0⟩
    else ⟨s, 0x00000000,
      .low 2 :: (frameBits s.pix (24 * s.cfg.n)).map .sym ++ [.low s.cfg.latchTicks],
      2 + 24 * s.cfg.n * s.cfg.symTicks + s.cfg.latchTicks⟩
  | .ok (.setPix idx r g b) =>
    if s.cfg.n ≤ idx.toNat then ⟨{ s with idxf := true }, 0x01000000, [], 0⟩
    else ⟨{ s with pix := writePixel s.pix idx.toNat ⟨r, g, b⟩ }, 0x00000000, [], 0⟩
  | .ok .clear => ⟨{ s with pix := [] }, 0x00000000, [], s.cfg.n - 1⟩
  | .ok (.get idx) =>
    if s.cfg.n ≤ idx.toNat then ⟨{ s with idxf := true }, 0x01000000, [], 0⟩
    else
      let p := readPixel s.pix idx.toNat
      ⟨s, 0x00#8 ++ p.r ++ p.g ++ p.b, [], 0⟩
  | .ok .stat => ⟨s, 0x0000#16 ++ BitVec.ofNat 8 (s.cfg.n - 1) ++ status s, [], 0⟩

/-- The levels of a wire event, period by period. -/
def eventLine (c : Config) : WireEvent → List Line
  | .low n => List.replicate n .l
  | .sym v => symbolLine c v

/-- The levels of a transaction from the period after its acceptance on. -/
def wireLine (c : Config) (events : List WireEvent) : List Line := events.flatMap (eventLine c)

end Sys2Proof.Machine
end

