-- ==== Sys2Proof/Safety.lean ====
section
/-! DEFINITION. The terms claims are made in: runs, the invariant of reachable states, the frames. -/

namespace Sys2Proof.Machine

/-- `k` edges, stopping at a fault or a refusal. -/
def run : Nat → State → Host.Outcome State Fault Refusal
  | 0, s => .next s
  | k + 1, s => onNext (step s) (run k)

/-- No edge of the next `k` has `rst = 1`. -/
def NoReset (k : Nat) (s : State) : Prop :=
  ∀ j, j < k → ∀ u, run j s = .next u → u.pins.rst = false

/-- `SETPIX i, 0, 0, 0` for the first `k` cells, in turn from cell 0 (40_pixel_store_ops.md R127 (b)). -/
def setBlack : Nat → State → Host.Outcome State Fault Refusal
  | 0, s => .next s
  | k + 1, s => onNext (setBlack k s) (exec (.setPix (BitVec.ofNat 8 k) 0 0 0))

/-! ### The invariant (10_state.md R36 with the ranges of R21 and R27 to R30) -/

/-- The pixel store: canonical, and of `N` cells (R21). -/
abbrev StoreOk (s : State) : Prop := s.pix.wf ∧ ∀ c ∈ s.pix, c.1 < 3 * s.cfg.n

/-- R36 (a), and the same of `SR`, `NBIT`, `TCNT` whenever `SHIFTING = 0` (R29, R31). -/
abbrev EngineRests (s : State) : Prop :=
  (s.mode ≠ .frame → s.q = [] ∧ s.shifting = false) ∧
  (s.shifting = false → s.sr = 0 ∧ s.nbit = 0 ∧ s.tcnt = 0)

/-- R36 (b), and the range of `GAPCNT` in `GAP` (R30). -/
abbrev GapOk (s : State) : Prop :=
  (s.mode ≠ .gap → s.gapCnt = 0) ∧ (s.mode = .gap → 1 ≤ s.gapCnt ∧ s.gapCnt ≤ s.cfg.latchTicks)

/-- R36 (c) and (d). -/
abbrev FlagsOk (s : State) : Prop :=
  (s.mode = .frame ∨ s.mode = .gap → s.initd = true) ∧
  (s.fatal = true → s.initd = false ∧ s.mode = .idle)

/-- R36 (e), and R33: no response means a zero response register. -/
abbrev ResponseOk (s : State) : Prop :=
  (s.rspv = true → s.mode = .idle) ∧ (s.rspv = false → s.rspd = 0)

/-- R36 (f), (g), (h). -/
abbrev EngineOk (s : State) : Prop :=
  s.q.length ≤ s.cfg.qDepth ∧
  (s.shifting = true → 1 ≤ s.nbit ∧ s.nbit ≤ 8 ∧ s.tcnt < s.cfg.symTicks) ∧
  s.cell ≤ s.cfg.n ∧ (s.cell = s.cfg.n → s.chan = .green)

/-- The range of `CLRIDX` (R27); cell 0 is cleared before `CLR` begins. -/
abbrev ClearOk (s : State) : Prop := s.clrIdx < s.cfg.n ∧ (s.mode = .clr → 1 ≤ s.clrIdx)

/-- One colour per LED (43_wire_protocol_observer.md R206). -/
abbrev ChainOk (s : State) : Prop := s.chain.shown.length = s.cfg.chainLen

/-- The invariant of every reachable state. -/
abbrev State.Inv (s : State) : Prop :=
  s.cfg.Valid ∧ StoreOk s ∧ EngineRests s ∧ GapOk s ∧ FlagsOk s ∧ ResponseOk s ∧ EngineOk s ∧
  ClearOk s ∧ ChainOk s

/-! ### The observer keeps pace with the engine -/

/-- Bytes of the frame pushed so far (42_transmit_engine.md R165). -/
def bytesPushed (s : State) : Nat := 3 * s.cell + s.chan.code

/-- Bytes of the frame loaded into `SR` so far (R164): pushed and no longer queued. -/
def bytesLoaded (s : State) : Nat := bytesPushed s - s.q.length

/-- The number of the symbol on the wire while `SHIFTING = 1` (R163, R164). -/
def symbolIndex (s : State) : Nat := 8 * (bytesLoaded s - 1) + (8 - s.nbit)

/-- The engine sends the frame of the store: what is queued and what is in `SR` are the frame's bytes at
their places (20_memory.md R70; 42_transmit_engine.md R165, R170). -/
abbrev SendsFrame (s : State) : Prop :=
  s.mode = .frame →
    s.q.length ≤ bytesPushed s ∧
    s.q = (List.range s.q.length).map (fun k => frameByte s.pix (bytesLoaded s + k)) ∧
    (s.shifting = true →
      1 ≤ bytesLoaded s ∧ s.sr = frameByte s.pix (bytesLoaded s - 1) <<< (8 - s.nbit)) ∧
    (s.shifting = false → bytesLoaded s = 0)

/-- The queue does not run dry (42_transmit_engine.md R171): once the first byte is pushed, an empty queue
means that every byte of the frame has been pushed. -/
abbrev QueueFed (s : State) : Prop :=
  s.mode = .frame → s.q = [] → s.cell < s.cfg.n → s.shifting = false ∧ bytesPushed s = 0

/-- The chain outside symbols: not observing an undriven wire; before the first symbol of a frame, and
when no command is in progress, the low run is a latch already; the latch comes within the gap; a latched
burst is gone. -/
abbrev ChainRests (s : State) : Prop :=
  (s.initd = false → s.chain.watch = .off ∧ s.chain.high = 0 ∧ s.chain.low = 0 ∧ s.chain.bits = []) ∧
  (s.initd = true → s.chain.watch = .on) ∧
  (s.initd = true → s.shifting = false → s.chain.high = 0) ∧
  (s.initd = true → s.shifting = false → s.mode ≠ .gap → s.cfg.latchTicks ≤ s.chain.low) ∧
  (s.mode = .gap → s.cfg.latchTicks < s.chain.low + s.gapCnt) ∧
  (s.cfg.latchTicks ≤ s.chain.low → s.chain.bits = [])

/-- The chain inside symbols: its run lengths are the engine's, its burst is the frame up to here. -/
abbrev ChainDecodes (s : State) : Prop :=
  (s.shifting = true → s.tcnt < hiTicks s.cfg s.sr.msb →
    s.chain.high = s.tcnt + 1 ∧ s.chain.low = 0 ∧ s.chain.bits = frameBits s.pix (symbolIndex s)) ∧
  (s.shifting = true → hiTicks s.cfg s.sr.msb ≤ s.tcnt →
    s.chain.high = 0 ∧ s.chain.pulse = hiTicks s.cfg s.sr.msb ∧
    s.chain.pulse + s.chain.low = s.tcnt + 1 ∧
    s.chain.bits = frameBits s.pix (symbolIndex s + 1))

/-- The chain has decoded exactly the bits sent (43_wire_protocol_observer.md R207), and the waveform never
breaks R211. -/
abbrev ChainInStep (s : State) : Prop := ChainRests s ∧ ChainDecodes s

/-- The store shows on the chain: what R209 asks of `SHOWN` at the response of a `WRITE`. -/
def ShowsStore (before : List Pixel) (s : State) : Prop :=
  ∀ k, k < s.cfg.chainLen →
    s.chain.shown[k]? = if k < s.cfg.n then some (readPixel s.pix k) else before[k]?

/-! ### Commands and edges -/

/-- The legal command accepted at the next edge, if there is one (10_state.md R40, 30_encoding.md R95). -/
def commandAt (s : State) : Option Instr :=
  if accepts s then
    match decode s.pins.cmdData with
    | .ok i => some i
    | .error _ => none
  else none

/-- An illegal word is accepted at the next edge. -/
def illegalAt (s : State) : Bool :=
  accepts s && match decode s.pins.cmdData with
    | .ok _ => false
    | .error _ => true

/-- A `SETPIX` or `GET` with `idx >= N` is accepted at the next edge (40_pixel_store_ops.md R121). -/
def indexFaultAt (s : State) : Bool :=
  match commandAt s with
  | some (.setPix idx _ _ _) => s.cfg.n ≤ idx.toNat
  | some (.get idx) => s.cfg.n ≤ idx.toNat
  | some .init | some .write | some .clear | some .stat | none => false

/-- The symbol window on the wire ends at the next edge (42_transmit_engine.md R163). -/
abbrev SymbolEnds (s : State) : Prop := s.shifting = true ∧ s.tcnt = s.cfg.symTicks - 1

/-- The last symbol window of the frame ends at the next edge (42_transmit_engine.md R166). -/
abbrev FrameEnds (s : State) : Prop := SymbolEnds s ∧ s.nbit = 1 ∧ s.q = [] ∧ s.cell = s.cfg.n

/-- The serializer takes a byte at the next edge (42_transmit_engine.md R164). -/
abbrev Loads (s : State) : Prop :=
  (s.shifting = false ∨ (SymbolEnds s ∧ s.nbit = 1)) ∧ s.q ≠ []

/-- The table of 42_transmit_engine.md R161. -/
def nextMode (s : State) : Mode :=
  if s.pins.rst then .idle
  else match s.mode with
    | .idle =>
      if commandAt s = some .init ∧ s.initd = false ∧ s.pins.chanAvail = true then .gap
      else if commandAt s = some .write ∧ s.initd = true then .frame
      else if commandAt s = some .clear ∧ 2 ≤ s.cfg.n then .clr
      else .idle
    | .clr => if s.clrIdx = s.cfg.n - 1 then .idle else .clr
    | .frame => if FrameEnds s then .gap else .frame
    | .gap => if s.gapCnt = 1 then .idle else .gap

/-- The reset state of the block's tuple, and the outputs that follow from it (10_state.md R42). -/
abbrev IsResetState (t : State) : Prop :=
  ((∀ i, readPixel t.pix i = Pixel.black) ∧ t.initd = false ∧ t.fatal = false ∧
    t.idxf = false ∧ t.illf = false ∧ t.seqf = false ∧ t.mode = .idle) ∧
  (t.clrIdx = 0 ∧ t.cell = 0 ∧ t.chan.code = 0 ∧ t.nbit = 0 ∧ t.tcnt = 0 ∧ t.gapCnt = 0 ∧
    t.q = [] ∧ t.shifting = false ∧ t.sr = 0 ∧ t.rspv = false ∧ t.rspd = 0) ∧
  (cmdReady t = true ∧ rspValid t = false ∧ rspData t = 0 ∧ doutEn t = false ∧ dout t = false ∧
    line t = .z ∧ status t = 0x00)

/-- No address of cell `i` (log entry 5). -/
abbrev OutsideCell (i a : Nat) : Prop := ∀ c : Chan, a ≠ channelAddr i c

/-! ### Frames: what is left unchanged -/

/-- Every byte of the store reads as before. -/
def SameStore (s t : State) : Prop := ∀ a, readByte t.pix a = readByte s.pix a

/-- Every flag is as before. -/
def SameFlags (s t : State) : Prop :=
  t.initd = s.initd ∧ t.fatal = s.fatal ∧ t.idxf = s.idxf ∧ t.illf = s.illf ∧ t.seqf = s.seqf

/-- The sequencer is where it was (10_state.md R26 to R28, R30). -/
def SamePosition (s t : State) : Prop :=
  t.mode = s.mode ∧ t.clrIdx = s.clrIdx ∧ t.cell = s.cell ∧ t.chan = s.chan ∧ t.gapCnt = s.gapCnt

/-- The data path is as before (10_state.md R29, R31, R32). -/
def SameDataPath (s t : State) : Prop :=
  t.q = s.q ∧ t.shifting = s.shifting ∧ t.sr = s.sr ∧ t.nbit = s.nbit ∧ t.tcnt = s.tcnt

/-- What is around the block is as before: the parameters, the ports, the host, the chain. -/
def SameAround (s t : State) : Prop :=
  t.cfg = s.cfg ∧ t.pins = s.pins ∧ t.hold = s.hold ∧ t.script = s.script ∧ t.rstAt = s.rstAt ∧
  t.edge = s.edge ∧ t.chain = s.chain

end Sys2Proof.Machine
end

