-- ==== Sys2Proof/Certificates/Slice0/Obligations.lean ====
section
/-! DEFINITION. The statements for the provers. Each docstring names the rules it formalises. -/

open Sys2Proof Sys2Proof.Machine

/-! ### Encoding -/

/-- A few words written out from 30_encoding.md R90 to R94 (95_test_vectors.md V1 to V3). -/
def Obligations.WrittenWordsDecode : Prop :=
  decode 0x0100000000 = .ok .init ∧ decode 0x0200000000 = .ok .write ∧
  decode 0x0318123456 = .ok (.setPix 24 0x12 0x34 0x56) ∧ decode 0x0400000000 = .ok .clear ∧
  decode 0x05FF000000 = .ok (.get 255) ∧ decode 0x0600000000 = .ok .stat ∧
  decode 0x0000000000 = .error .unknownOp ∧ decode 0x0700000000 = .error .unknownOp ∧
  decode 0x0180000000 = .error .reservedNonzero ∧ decode 0x0503000001 = .error .reservedNonzero

/-- Decoding the word of a command gives the command back, at every value of every operand (R90 to R95). -/
def Obligations.DecodeOfEncode : Prop := ∀ i : Instr, decode (encode i) = .ok i

/-- A word that decodes to a command is the word of that command: nothing of a word is dropped (R90 to R95).
-/
def Obligations.EncodeOfDecode : Prop := ∀ (w : Word) (i : Instr), decode w = .ok i → encode i = w

/-- R93: a word that selects a row decodes to that row's command with the word's fields, and no word selects
two rows. -/
def Obligations.OpcodeMapDecides : Prop :=
  (∀ row ∈ opcodeMap, ∀ w : Word, row.selects w = true →
    ∃ i, decode w = .ok i ∧ i.mnemonic = row.mnemonic ∧ encode i = w) ∧
  (∀ row ∈ opcodeMap, ∀ row' ∈ opcodeMap, ∀ w : Word,
    row.selects w = true → row'.selects w = true → row = row')

/-- R94: which words are illegal, and what an accepted illegal word does: `ILLF`, the response, and no other
state of the block (`afterEdge` is the host's and the chain's part of the edge). -/
def Obligations.IllegalWordFaults : Prop :=
  (∀ w : Word, (∃ e, decode w = .error e) ↔ ∀ row ∈ opcodeMap, row.selects w = false) ∧
  (∀ w : Word, (∃ e, decode w = .error e) ↔
    (fieldOp w = 0x00 ∨ 0x07 ≤ (fieldOp w).toNat) ∨
    ((fieldOp w = 0x01 ∨ fieldOp w = 0x02 ∨ fieldOp w = 0x04 ∨ fieldOp w = 0x06) ∧
      w.toNat % 2 ^ 32 ≠ 0) ∨
    (fieldOp w = 0x05 ∧ w.toNat % 2 ^ 24 ≠ 0)) ∧
  (∀ s : State, s.cfg.Valid → illegalAt s = true →
    step s = .next (afterEdge true { s with illf := true, rspv := true, rspd := 0x03000000 }))

/-- R95, which the spec derives from R93 and R94: each of the seven outcomes, with its number of words. -/
def Obligations.DecodeOutcomeCounts : Prop :=
  Nat.card { w : Word // decode w = .ok .init } = 1 ∧
  Nat.card { w : Word // decode w = .ok .write } = 1 ∧
  Nat.card { w : Word // ∃ idx r g b, decode w = .ok (.setPix idx r g b) } = 2 ^ 32 ∧
  Nat.card { w : Word // decode w = .ok .clear } = 1 ∧
  Nat.card { w : Word // ∃ idx, decode w = .ok (.get idx) } = 256 ∧
  Nat.card { w : Word // decode w = .ok .stat } = 1 ∧
  Nat.card { w : Word // ∃ e, decode w = .error e } = 2 ^ 40 - 2 ^ 32 - 260

/-- R100, R101: the word of every line; each pseudo-command is one real command; a line has no word exactly when
it is a directive or an operand is out of range (that `SETRGB` takes at most 24 bits is log entry 16). -/
def Obligations.AssemblerExpands : Prop :=
  (asmWord .init = some 0x0100000000 ∧ asmWord .write = some 0x0200000000 ∧
    asmWord .clear = some 0x0400000000 ∧ asmWord .stat = some 0x0600000000) ∧
  (∀ i r g b : Byte,
    asmWord (.setPix i.toNat r.toNat g.toNat b.toNat) = some (encode (.setPix i r g b)) ∧
    asmWord (.setRgb i.toNat (65536 * r.toNat + 256 * g.toNat + b.toNat)) =
      some (encode (.setPix i r g b)) ∧
    asmWord (.get i.toNat) = some (encode (.get i)) ∧
    asmWord (.red i.toNat) = some (encode (.setPix i 255 0 0)) ∧
    asmWord (.green i.toNat) = some (encode (.setPix i 0 255 0)) ∧
    asmWord (.black i.toNat) = some (encode (.setPix i 0 0 0))) ∧
  (∀ i r g b : Nat, asmWord (.setPix i r g b) = none ↔ 256 ≤ i ∨ 256 ≤ r ∨ 256 ≤ g ∨ 256 ≤ b) ∧
  (∀ i v : Nat, asmWord (.setRgb i v) = none ↔ 256 ≤ i ∨ 2 ^ 24 ≤ v) ∧
  (∀ i : Nat, (asmWord (.get i) = none ↔ 256 ≤ i) ∧ (asmWord (.red i) = none ↔ 256 ≤ i) ∧
    (asmWord (.green i) = none ↔ 256 ≤ i) ∧ (asmWord (.black i) = none ↔ 256 ≤ i)) ∧
  (∀ (n : Nat) (v : Bool), asmWord (.wait n) = none ∧ asmWord (.env v) = none ∧ asmWord .rst = none ∧
    asmWord (.rstAt n) = none)

/-! ### The step around a command -/

/-- R160, R162: when a legal word is accepted, the step is that command's body with the old response cleared,
and then the host's and the chain's part of the edge. -/
def Obligations.StepRunsDecodedCommand : Prop :=
  ∀ (s : State) (i : Instr), s.cfg.Valid → accepts s = true → decode s.pins.cmdData = .ok i →
    step s = onNext (exec i (clearResponse s)) fun t => .next (afterEdge true t)

/-- R9: a configuration that breaks a constraint is refused, and no step is refused for anything else; the
defaults keep the constraints. That a bad configuration refuses every step is the model's form (log entry 8). -/
def Obligations.BadConfigurationRefused : Prop :=
  (∀ s : State, (∃ r, step s = .refused r) ↔ ¬ s.cfg.Valid) ∧
  (∀ s : State, ¬ s.cfg.Valid → step s = .refused .badConfig) ∧ Config.default.Valid

/-- R42, R260: the reset state, with its outputs, at power-on and after every edge with `rst = 1`. -/
def Obligations.ResetState : Prop :=
  IsResetState State.reset ∧
  ∀ s : State, s.cfg.Valid → s.pins.rst = true → ∃ t, step s = .next t ∧ IsResetState t

/-- An edge in `IDLE` with nothing accepted changes nothing of the block but the response register, which
returns to 0 (R160; V52). -/
def Obligations.IdleEdgeChangesNothing : Prop :=
  ∀ s : State, s.cfg.Valid → s.mode = .idle → s.pins.rst = false → accepts s = false →
    step s = .next (afterEdge false { s with rspv := false, rspd := 0 })

/-- The model's host keeps the duty of R267 (a) (log entry 4): an offer it holds stays on the port, word and
all, until an edge accepts it. -/
def Obligations.OfferHeldUntilAccepted : Prop :=
  ∀ s t : State, step s = .next t → s.hold = true → s.pins.cmdValid = true → accepts s = false →
    t.hold = true ∧ t.pins.cmdValid = true ∧ t.pins.cmdData = s.pins.cmdData ∧ t.script = s.script

/-- R263, R101: while `rst` is held `cmd_ready` reads 1 and nothing is accepted; edges are numbered from the
first one with `rst = 0`, and every later edge counts; at the edge a directive `RST @e` names `rst` is 1 (of
`RST @0` log entry 17 speaks). -/
def Obligations.EdgesNumberedFromRelease : Prop :=
  ∀ s t : State, step s = .next t →
    (s.pins.rst = true → accepts s = false ∧ cmdReady t = true ∧ t.rspv = false) ∧
    (s.edge = 0 → s.pins.rst = true → t.edge = 0) ∧
    (1 ≤ s.edge ∨ s.pins.rst = false →
      t.edge = s.edge + 1 ∧ t.rstAt = s.rstAt ∧ (t.edge ∈ s.rstAt → t.pins.rst = true)) ∧
    (∀ script rstAt, (placeScript script rstAt s).edge = 0)

/-- R102: the host that holds no offer, with a word next in its script, offers it in the period after this edge
exactly when `cmd_ready = 1` there, and keeps it for later when not; with nothing left it offers nothing. -/
def Obligations.HostOffersWhenReady : Prop :=
  ∀ s t : State, step s = .next t → s.hold = false ∨ accepts s = true →
    (∀ (w : Word) (rest : List HostItem), s.script = .offer w :: rest →
      (cmdReady t = true →
        t.pins.cmdValid = true ∧ t.pins.cmdData = w ∧ t.hold = true ∧ t.script = rest) ∧
      (cmdReady t = false → t.pins.cmdValid = false ∧ t.hold = false ∧ t.script = s.script)) ∧
    (s.script = [] → t.pins.cmdValid = false ∧ t.hold = false ∧ t.script = [])

/-! ### The commands: results, frames, completion. An equation with `{ s with … }` says that every field
not named, and so every byte of the store, is as before. -/

/-- R120, R121: `SETPIX` stores one pixel, or reports the index; every byte outside the cell stays. -/
def Obligations.SetPixStoresOnePixel : Prop :=
  ∀ (s : State) (idx r g b : Byte), s.pix.wf →
    (s.cfg.n ≤ idx.toNat →
      exec (.setPix idx r g b) s = .next { s with idxf := true, rspv := true, rspd := 0x01000000 }) ∧
    (idx.toNat < s.cfg.n → ∃ m : Memory,
      exec (.setPix idx r g b) s = .next { s with pix := m, rspv := true, rspd := 0x00000000 } ∧
      m.wf ∧ readPixel m idx.toNat = ⟨r, g, b⟩ ∧
      (∀ j, j ≠ idx.toNat → readPixel m j = readPixel s.pix j) ∧
      (∀ a, OutsideCell idx.toNat a → readByte m a = readByte s.pix a))

/-- R130, R121: `GET` responds with the pixel, or reports the index; nothing else changes. -/
def Obligations.GetReadsOnePixel : Prop :=
  ∀ (s : State) (idx : Byte),
    (s.cfg.n ≤ idx.toNat →
      exec (.get idx) s = .next { s with idxf := true, rspv := true, rspd := 0x01000000 }) ∧
    (idx.toNat < s.cfg.n → ∀ r g b : Byte, readPixel s.pix idx.toNat = ⟨r, g, b⟩ →
      exec (.get idx) s = .next { s with rspv := true, rspd := 0x00#8 ++ r ++ g ++ b })

/-- R125: `CLEAR` at its accepting edge: cell 0 is black, every byte outside it stays; with one cell it is
done, with more the `CLR` arm goes on from cell 1. -/
def Obligations.ClearStarts : Prop :=
  ∀ s : State, s.pix.wf → 1 ≤ s.cfg.n → ∃ m : Memory,
    exec .clear s = .next (if s.cfg.n = 1 then { s with pix := m, rspv := true, rspd := 0x00000000 }
      else { s with pix := m, mode := .clr, clrIdx := 1 }) ∧
    m.wf ∧ readPixel m 0 = Pixel.black ∧ (∀ a, OutsideCell 0 a → readByte m a = readByte s.pix a)

/-- R140, R142, R143: the three outcomes of `INIT` at its accepting edge. -/
def Obligations.InitClaimsOrFaults : Prop :=
  ∀ s : State,
    (s.initd = true →
      exec .init s = .next { s with seqf := true, rspv := true, rspd := 0x05000000 }) ∧
    (s.initd = false → s.pins.chanAvail = false →
      exec .init s = .next { s with fatal := true, rspv := true, rspd := 0x02000000 }) ∧
    (s.initd = false → s.pins.chanAvail = true →
      exec .init s = .next { s with initd := true, mode := .gap, gapCnt := s.cfg.latchTicks })

/-- R144, R146: the two outcomes of `WRITE` at its accepting edge. -/
def Obligations.WriteStartsOrFaults : Prop :=
  ∀ s : State,
    (s.initd = false →
      exec .write s = .next { s with seqf := true, rspv := true, rspd := 0x04000000 }) ∧
    (s.initd = true → exec .write s = .next { s with mode := .frame, cell := 0, chan := .green })

/-- R148, R34: `STAT` responds with `N - 1` and `STATUS`, whose bits are the flags; nothing else changes. -/
def Obligations.StatReportsStatus : Prop :=
  ∀ s : State,
    exec .stat s = .next
      { s with rspv := true, rspd := 0x0000#16 ++ BitVec.ofNat 8 (s.cfg.n - 1) ++ status s } ∧
    (status s).getLsbD 0 = s.initd ∧ (status s).getLsbD 1 = s.fatal ∧
    (status s).getLsbD 2 = s.idxf ∧ (status s).getLsbD 3 = s.illf ∧
    (status s).getLsbD 4 = s.seqf ∧ (status s).getLsbD 5 = decide (s.mode ≠ .idle) ∧
    (status s).getLsbD 6 = false ∧ (status s).getLsbD 7 = false

/-- R35, which the spec derives from R40 and R148: `STAT` never shows `FATAL` or `BUSY`. -/
def Obligations.StatNeverShowsBusyOrFatal : Prop :=
  ∀ s : State, s.cfg.Valid → commandAt s = some .stat →
    ∃ t, step s = .next t ∧ t.rspd.getLsbD 1 = false ∧ t.rspd.getLsbD 5 = false

/-- R123 (a), R71: set then get. Between the two edges the host may put anything on the ports. -/
def Obligations.SetThenGet : Prop :=
  ∀ (s t : State) (idx r g b : Byte) (p : Pins), s.pix.wf → idx.toNat < s.cfg.n →
    commandAt s = some (.setPix idx r g b) → step s = .next t →
    commandAt { t with pins := p } = some (.get idx) →
    ∃ u, step { t with pins := p } = .next u ∧ u.rspv = true ∧ u.rspd = 0x00#8 ++ r ++ g ++ b

/-- The canonical form makes equal memories equal data (log entry 5: the model's form of the store). -/
def Obligations.CanonicalStoreExtensional : Prop :=
  ∀ m m' : Memory, m.wf → m'.wf → (∀ a, readByte m a = readByte m' a) → m = m'

/-- R127 (a), (b), (d): an accepted `CLEAR` run to its end leaves the store that the meanings of
`SETPIX i, 0, 0, 0` for `i = 0 .. N - 1` leave, from any contents; that store is black, and neither way
changes a flag. Equal stores are equal data (log entry 5). -/
def Obligations.ClearIsBlackEverywhere : Prop :=
  ∀ s : State, s.Inv → commandAt s = some .clear → NoReset s.cfg.n s →
    ∃ u v, run s.cfg.n s = .next u ∧ setBlack s.cfg.n s = .next v ∧ u.pix = v.pix ∧
      (∀ i, i < s.cfg.n → readPixel u.pix i = Pixel.black) ∧ SameFlags s u ∧ SameFlags s v

/-! ### The arms of the engine -/

/-- R126: one edge of the `CLR` arm. -/
def Obligations.ClrEdge : Prop :=
  ∀ s : State, s.Inv → s.mode = .clr → s.pins.rst = false →
    ∃ t, step s = .next t ∧ readPixel t.pix s.clrIdx = Pixel.black ∧
      (∀ a, OutsideCell s.clrIdx a → readByte t.pix a = readByte s.pix a) ∧
      SameFlags s t ∧ SameDataPath s t ∧
      (s.clrIdx = s.cfg.n - 1 →
        t.mode = .idle ∧ t.clrIdx = s.clrIdx ∧ t.rspv = true ∧ t.rspd = 0x00000000) ∧
      (s.clrIdx ≠ s.cfg.n - 1 →
        t.mode = .clr ∧ t.clrIdx = s.clrIdx + 1 ∧ t.rspv = false ∧ t.rspd = 0)

/-- R163, R164, R166: what one `FRAME` edge does to the symbol on the wire, in every case: inside a window, at
the end of one, at a load, and with nothing to shift and an empty queue (R169: the edge after the acceptance). -/
def Obligations.SerializerEdge : Prop :=
  ∀ s : State, s.Inv → s.mode = .frame → s.pins.rst = false →
    ∃ t, step s = .next t ∧ SameStore s t ∧ SameFlags s t ∧ t.rspv = false ∧
      (s.shifting = true → s.tcnt < s.cfg.symTicks - 1 →
        t.mode = .frame ∧ t.shifting = true ∧ t.tcnt = s.tcnt + 1 ∧ t.sr = s.sr ∧ t.nbit = s.nbit) ∧
      (SymbolEnds s → 1 < s.nbit →
        t.mode = .frame ∧ t.shifting = true ∧ t.tcnt = 0 ∧ t.sr = s.sr <<< 1 ∧ t.nbit = s.nbit - 1) ∧
      (Loads s → ∃ byte rest, s.q = byte :: rest ∧
        t.mode = .frame ∧ t.shifting = true ∧ t.tcnt = 0 ∧ t.sr = byte ∧ t.nbit = 8) ∧
      (FrameEnds s → t.mode = .gap ∧ t.gapCnt = s.cfg.latchTicks ∧
        t.shifting = false ∧ t.sr = 0 ∧ t.nbit = 0 ∧ t.tcnt = 0) ∧
      (SymbolEnds s → s.nbit = 1 → s.q = [] → s.cell < s.cfg.n →
        t.mode = .frame ∧ t.shifting = false ∧ t.sr = 0 ∧ t.nbit = 0 ∧ t.tcnt = 0) ∧
      (s.shifting = false → s.q = [] →
        (t.shifting = s.shifting ∧ t.sr = s.sr ∧ t.nbit = s.nbit ∧ t.tcnt = s.tcnt) ∧
        (s.cell < s.cfg.n → t.mode = .frame) ∧
        (s.cell = s.cfg.n → t.mode = .gap ∧ t.gapCnt = s.cfg.latchTicks))

/-- R165: what one `FRAME` edge does to the queue: after the load, one byte of the frame if there is room and
one is left, in the order Green, Red, Blue, cell after cell. -/
def Obligations.ConverterEdge : Prop :=
  ∀ s t : State, s.Inv → s.mode = .frame → s.pins.rst = false → step s = .next t →
    ∃ q : List Byte, (Loads s → q = s.q.tail) ∧ (¬ Loads s → q = s.q) ∧
      (s.cell < s.cfg.n ∧ q.length < s.cfg.qDepth →
        t.q = q ++ [frameByte s.pix (bytesPushed s)] ∧ bytesPushed t = bytesPushed s + 1) ∧
      (¬ (s.cell < s.cfg.n ∧ q.length < s.cfg.qDepth) → t.q = q ∧ bytesPushed t = bytesPushed s)

/-- R168, which the spec derives from R163 and R164: the levels of one whole symbol window. -/
def Obligations.SymbolTiming : Prop :=
  ∀ s : State, s.Inv → s.mode = .frame → s.shifting = true → s.tcnt = 0 → NoReset s.cfg.symTicks s →
    ∀ k, k < s.cfg.symTicks → ∃ u, run k s = .next u ∧ u.mode = .frame ∧ u.tcnt = k ∧
      u.sr = s.sr ∧ (dout u = true ↔ k < hiTicks s.cfg s.sr.msb) ∧
      line u = symbolLevel s.cfg s.sr.msb k

/-- R167: the gap generator, from any point of a gap: the line stays low and the port closed until `GAPCNT`
has run out, and the response comes then. -/
def Obligations.GapHoldsLineLow : Prop :=
  ∀ s : State, s.Inv → s.mode = .gap → NoReset s.gapCnt s →
    (∀ k, k < s.gapCnt → ∃ u, run k s = .next u ∧ u.mode = .gap ∧ u.gapCnt = s.gapCnt - k ∧
      line u = .l ∧ cmdReady u = false ∧ (1 ≤ k → u.rspv = false)) ∧
    ∃ u, run s.gapCnt s = .next u ∧ u.mode = .idle ∧ u.gapCnt = 0 ∧ line u = .l ∧
      u.rspv = true ∧ u.rspd = 0x00000000

/-! ### Rules of the whole machine -/

/-- R36, which the spec derives from R160 to R168, with the ranges of R27 to R30 and R33, the canonical form
of the store (log entry 5) and one colour per LED (R206): every step keeps the invariant. -/
def Obligations.StepKeepsInvariant : Prop :=
  ∀ s t : State, s.Inv → step s = .next t → t.Inv

/-- The invariant holds at reset. -/
def Obligations.ResetMeetsInvariant : Prop := State.reset.Inv

/-- R160: the step is total: no fault and no refusal from any state of the block. -/
def Obligations.StepNeverStops : Prop := ∀ s : State, s.Inv → ∃ t, step s = .next t

/-- R165, and R170 and R171, which the spec derives from it: what is queued and shifted is always the frame of
the store, byte for byte, and the queue does not run dry. -/
def Obligations.FrameContentKept : Prop :=
  ∀ s t : State, s.Inv → SendsFrame s → QueueFed s → step s = .next t → SendsFrame t ∧ QueueFed t

/-- The model's running form of R207 (log entries 10 to 12): the chain has always decoded exactly what was
sent, no waveform breaks R211, and a latch has passed whenever no command is in progress (R77). -/
def Obligations.ChainKeepsPace : Prop :=
  ∀ s t : State, s.Inv → SendsFrame s → QueueFed s → ChainInStep s → step s = .next t → ChainInStep t

/-- The frame and the observer are in step at reset. -/
def Obligations.ResetInStep : Prop :=
  SendsFrame State.reset ∧ QueueFed State.reset ∧ ChainInStep State.reset

/-- R161, which the spec derives from R160: the complete list of mode transitions. -/
def Obligations.ModeTransitions : Prop :=
  ∀ s t : State, s.Inv → SendsFrame s → step s = .next t → t.mode = nextMode s

/-- R22 to R24, R233: what sets each flag, and that only reset clears one. -/
def Obligations.FlagsSetAndKept : Prop :=
  ∀ s t : State, step s = .next t →
    (s.pins.rst = true → t.initd = false ∧ t.fatal = false ∧ t.idxf = false ∧ t.illf = false ∧
      t.seqf = false) ∧
    (s.pins.rst = false →
      t.idxf = (s.idxf || indexFaultAt s) ∧
      t.illf = (s.illf || illegalAt s) ∧
      t.seqf = (s.seqf || (commandAt s = some .write && !s.initd) ||
        (commandAt s = some .init && s.initd)) ∧
      t.initd = (s.initd || (commandAt s = some .init && s.pins.chanAvail)) ∧
      t.fatal = (s.fatal || (commandAt s = some .init && !s.initd && !s.pins.chanAvail)))

/-- R61, R136: what changes a byte of the store: reset, the `CLR` arm at its cell, an accepted `SETPIX` at its
cell, an accepted `CLEAR` at cell 0. -/
def Obligations.StoreWriters : Prop :=
  ∀ (s t : State) (a : Nat), s.pix.wf → step s = .next t → readByte t.pix a ≠ readByte s.pix a →
    s.pins.rst = true ∨
    (s.mode = .clr ∧ ¬ OutsideCell s.clrIdx a) ∨
    (∃ idx r g b, commandAt s = some (.setPix idx r g b) ∧ idx.toNat < s.cfg.n ∧
      ¬ OutsideCell idx.toNat a) ∨
    (commandAt s = some .clear ∧ ¬ OutsideCell 0 a)

/-- R33, R96, R230 (b), the last of which the spec derives from R160: exactly when a response is issued: the
edge that ends a command without a reset, be it the accepting one or a later one; in every other period the
register is 0. -/
def Obligations.OneResponsePerCommand : Prop :=
  ∀ s t : State, s.Inv → step s = .next t →
    (s.pins.rst = true → t.rspv = false) ∧
    (s.pins.rst = false →
      (t.rspv = true ↔ t.mode = .idle ∧ (accepts s = true ∨ s.mode ≠ .idle))) ∧
    (t.rspv = false → t.rspd = 0)

/-- R97, R98, R227: the codes that occur are 0x00 to 0x05, and a fault response carries no data. -/
def Obligations.ResponseCodes : Prop :=
  ∀ s t : State, step s = .next t → t.rspv = true →
    (t.rspd.extractLsb' 24 8).toNat ≤ 5 ∧
    (t.rspd.extractLsb' 24 8 ≠ 0#8 → t.rspd.extractLsb' 0 24 = 0#24)

/-- R232, and R276, which the spec derives from it: the halted block: until a reset no command is accepted,
and nothing of the block changes but the response register, which returns to 0. -/
def Obligations.HaltedIsStuck : Prop :=
  ∀ s : State, s.Inv → s.fatal = true → ∀ k, NoReset k s →
    ∃ u, run k s = .next u ∧ SameStore s u ∧ SameFlags s u ∧ SamePosition s u ∧ SameDataPath s u ∧
      cmdReady u = false ∧ accepts u = false ∧ line u = .z ∧ (1 ≤ k → u.rspv = false ∧ u.rspd = 0)

/-- R236, which the spec derives from R140 to R146: the operating modes: how each is left, the line in each,
and that HALTED accepts nothing. -/
def Obligations.OperatingModes : Prop :=
  ∀ s t : State, s.Inv → step s = .next t →
    operatingMode t =
      (if s.pins.rst then .uninit
       else match operatingMode s with
         | .uninit =>
           if commandAt s = some .init then (if s.pins.chanAvail then .ready else .halted) else .uninit
         | .ready => .ready
         | .halted => .halted) ∧
    (operatingMode s = .ready ↔ line s ≠ .z) ∧ (operatingMode s = .halted → accepts s = false)

/-- R41, R200: the line is high only in a frame. -/
def Obligations.LineHighOnlyInFrame : Prop :=
  ∀ s : State, s.Inv → line s = .h → s.mode = .frame ∧ s.initd = true ∧ s.shifting = true

/-- R160, R152: in `CLR`, `FRAME` and `GAP` the block does not see the command port or `chan_avail`. -/
def Obligations.BusyIgnoresPorts : Prop :=
  ∀ (s t : State) (p : Pins), s.mode ≠ .idle → p.rst = s.pins.rst → clockEdge s = .next t →
    clockEdge { s with pins := p } = .next { t with pins := p }

/-- R8, R20: no step changes the parameters. -/
def Obligations.ParametersFixed : Prop := ∀ s t : State, step s = .next t → t.cfg = s.cfg

/-! ### Whole commands -/

/-- R125, R126: `CLEAR` from its acceptance to its response. -/
def Obligations.ClearRunsToBlack : Prop :=
  ∀ s : State, s.Inv → commandAt s = some .clear → NoReset s.cfg.n s →
    (∀ k, 1 ≤ k → k < s.cfg.n → ∃ u, run k s = .next u ∧ u.mode = .clr ∧ cmdReady u = false ∧
      u.rspv = false ∧ (∀ i, i < k → readPixel u.pix i = Pixel.black) ∧
      (∀ i, k ≤ i → readPixel u.pix i = readPixel s.pix i)) ∧
    ∃ u, run s.cfg.n s = .next u ∧ u.mode = .idle ∧ u.rspv = true ∧ u.rspd = 0x00000000 ∧
      (∀ i, readPixel u.pix i = Pixel.black) ∧ SameFlags s u

/-- R141: a successful `INIT` from its acceptance to its response. -/
def Obligations.InitRunsToResponse : Prop :=
  ∀ s : State, s.Inv → commandAt s = some .init → s.initd = false → s.pins.chanAvail = true →
    NoReset (s.cfg.latchTicks + 1) s →
    (∀ k, k < s.cfg.latchTicks → ∃ u, run (k + 1) s = .next u ∧ u.mode = .gap ∧ line u = .l ∧
      cmdReady u = false ∧ u.rspv = false) ∧
    ∃ u, run (s.cfg.latchTicks + 1) s = .next u ∧ u.mode = .idle ∧ u.initd = true ∧ line u = .l ∧
      u.rspv = true ∧ u.rspd = 0x00000000 ∧ SameStore s u

/-- R145: the waveform, the mode and the handshake of a `WRITE`, period by period, from its acceptance to its
response. It rests on the bit order of R69 and on which pulse is a 1 in R202, which the spec takes from
general knowledge. -/
def Obligations.WriteWaveform : Prop :=
  ∀ s : State, s.Inv → commandAt s = some .write → s.initd = true →
    NoReset (writeTicks s.cfg + 1) s →
    ∀ k, k ≤ writeTicks s.cfg → ∃ u, run (k + 1) s = .next u ∧
      line u = writeLevel s.cfg s.pix k ∧ u.mode = writeMode s.cfg k ∧
      rspValid u = decide (k = writeTicks s.cfg) ∧ cmdReady u = decide (k = writeTicks s.cfg)

/-- R145, R147, R280: the response of a `WRITE` comes exactly `2 + 24 N SYM_TICKS + LATCH_TICKS` edges after
its acceptance and is `OK`; the store and the flags are as before. -/
def Obligations.WriteResponds : Prop :=
  ∀ s : State, s.Inv → commandAt s = some .write → s.initd = true →
    NoReset (writeTicks s.cfg + 1) s →
    (∀ k, k < writeTicks s.cfg → ∃ u, run (k + 1) s = .next u ∧ u.rspv = false ∧ cmdReady u = false) ∧
    ∃ u, run (writeTicks s.cfg + 1) s = .next u ∧ u.rspv = true ∧ u.rspd = 0x00000000 ∧
      SameStore s u ∧ SameFlags s u

/-- V27, U4: the waveform of a `WRITE` does not depend on the depth of the queue. -/
def Obligations.QueueDepthUnseen : Prop :=
  ∀ (s : State) (d : Nat), s.Inv → commandAt s = some .write → s.initd = true → 1 ≤ d →
    NoReset (writeTicks s.cfg + 1) s →
    NoReset (writeTicks s.cfg + 1) { s with cfg := { s.cfg with qDepth := d } } →
    ∀ k, k ≤ writeTicks s.cfg → ∃ u u', run (k + 1) s = .next u ∧
      run (k + 1) { s with cfg := { s.cfg with qDepth := d } } = .next u' ∧
      line u = line u' ∧ u.rspv = u'.rspv ∧ u.rspd = u'.rspd ∧ cmdReady u = cmdReady u'

/-- R16, and R150, which the spec derives from the bodies: the tick level agrees with the transaction level:
for every accepted word the response comes after the row's number of edges, with the row's response and state
change, and not before. -/
def Obligations.TicksRefineTransactions : Prop :=
  ∀ s : State, s.Inv → accepts s = true → NoReset ((transact s.pins.cmdData s).edges + 1) s →
    (∀ j, 1 ≤ j → j ≤ (transact s.pins.cmdData s).edges →
      ∃ v, run j s = .next v ∧ v.rspv = false ∧ cmdReady v = false) ∧
    ∃ u, run ((transact s.pins.cmdData s).edges + 1) s = .next u ∧
      u.rspv = true ∧ u.rspd = (transact s.pins.cmdData s).rsp ∧ u.mode = .idle ∧
      SameStore (transact s.pins.cmdData s).after u ∧ SameFlags (transact s.pins.cmdData s).after u

/-- R150, which the spec derives from the bodies: the wire events of every command, period by period; after
them, and in a command without any, the line is `L` if `INITD = 1` and `Z` if not. -/
def Obligations.TransactionWire : Prop :=
  ∀ s : State, s.Inv → accepts s = true → NoReset ((transact s.pins.cmdData s).edges + 1) s →
    ∀ j, j ≤ (transact s.pins.cmdData s).edges → ∃ v, run (j + 1) s = .next v ∧
      line v = ((wireLine s.cfg (transact s.pins.cmdData s).wire)[j]?).getD
        (if (transact s.pins.cmdData s).after.initd then .l else .z)

/-! ### The LED chain -/

/-- R208: what each LED shows after a burst; that a short group is discarded the spec takes from general
knowledge. -/
def Obligations.BurstShown : Prop :=
  ∀ (bits : List Bool) (shown : List Pixel) (k : Nat), k < shown.length →
    (showBurst bits shown)[k]? =
      if 24 * k + 24 ≤ bits.length then
        some { g := bitsToByte ((bits.drop (24 * k)).take 8)
               r := bitsToByte ((bits.drop (24 * k + 8)).take 8)
               b := bitsToByte ((bits.drop (24 * k + 16)).take 8) }
      else shown[k]?

/-- R207 in the model's running form (log entries 11, 12): the chain decodes the symbols of any bit list and
latches it after a low of `LATCH_TICKS`. -/
def Obligations.ChainDecodesSymbols : Prop :=
  ∀ (cfg : Config) (c : Chain) (bits : List Bool), cfg.Valid → c.watch = .on → c.high = 0 → c.bits = [] →
    ∃ c' : Chain, c' = (bits.flatMap (symbolLine cfg) ++ List.replicate cfg.latchTicks Line.l).foldl
        (fun c level => observe cfg level c) c ∧
      c'.watch = .on ∧ c'.bits = [] ∧ c'.shown = showBurst bits c.shown ∧ c'.drawn = c.drawn

/-- R211 and R210 in the model's running form (log entry 11): which levels leave a driven waveform in
observation: a run of `H` that is not exactly one of the two lengths ends the meaning, and so does one that
opens inside a burst when the symbol before it was not exactly `SYM_TICKS`, but for a longer low after a whole
frame; `SHOWN` is then free (log entry 9), and the meaning comes back only when the wire has been `Z`. -/
def Obligations.OutOfToleranceHasNoMeaning : Prop :=
  ∀ (cfg : Config) (c : Chain), cfg.Valid →
    (c.watch = .on → c.high = 0 → c.bits ≠ [] →
      ((observe cfg .h c).watch = .on ↔ c.pulse + c.low = cfg.symTicks ∨
        (cfg.symTicks < c.pulse + c.low ∧ 24 * cfg.n ∣ c.bits.length))) ∧
    (c.watch = .on → 1 ≤ c.high →
      ((observe cfg .h c).watch = .on ↔ c.high < cfg.longTicks) ∧
      ((observe cfg .l c).watch = .on ↔ c.high = cfg.shortTicks ∨ c.high = cfg.longTicks)) ∧
    (c.watch ≠ .off → ∀ level, level ≠ Line.z → (observe cfg level c).watch ≠ .on →
      (observe cfg level c).watch = .noMeaning ∧
      (observe cfg level c).shown = (freeColours cfg.chainLen c).shown) ∧
    (c.watch = .noMeaning → ∀ level, level ≠ Line.z → (observe cfg level c).watch = .noMeaning) ∧
    (observe cfg .z c).watch = .off

/-- R209, which the spec derives from R203, R207, R208 and R145: end to end: at the response of a `WRITE`
every LED within the store shows its pixel, every other LED what it showed before. -/
def Obligations.ShownIsTheStore : Prop :=
  ∀ s : State, s.Inv → ChainInStep s → commandAt s = some .write → s.initd = true →
    NoReset (writeTicks s.cfg + 1) s →
    ∃ u, run (writeTicks s.cfg + 1) s = .next u ∧ rspValid u = true ∧ SameStore s u ∧
      ShowsStore s.chain.shown u
end

