-- ==== Sys2Proof/Laws/Decode.lean ====
section
/-! SUPPORT. The bits and the fields of an assembled command word. -/

namespace Sys2Proof

/-- Each bit of `{op, idx, r, g, b}`. -/
theorem getLsbD_assembleWord (op i r g b : Byte) (k : Nat) :
    (assembleWord op i r g b).getLsbD k =
      if k < 8 then b.getLsbD k else if k < 16 then g.getLsbD (k - 8)
      else if k < 24 then r.getLsbD (k - 16) else if k < 32 then i.getLsbD (k - 24)
      else op.getLsbD (k - 32) := by
  have h : (op ++ i ++ r ++ g ++ b : BitVec (8 + 8 + 8 + 8 + 8)).getLsbD k = _ := rfl
  unfold assembleWord
  refine h.trans ?_
  simp only [BitVec.getLsbD_append]
  simp only [show k - 8 - 8 = k - 16 by omega, show k - 16 - 8 = k - 24 by omega,
    show k - 24 - 8 = k - 32 by omega, show (k - 8 < 8) = (k < 16) by simp; omega,
    show (k - 16 < 8) = (k < 24) by simp; omega, show (k - 24 < 8) = (k < 32) by simp; omega]

theorem fieldOp_assembleWord (op i r g b : Byte) : fieldOp (assembleWord op i r g b) = op := by
  refine BitVec.eq_of_getLsbD_eq fun k hk => ?_
  simp only [fieldOp, BitVec.getLsbD_extractLsb', getLsbD_assembleWord, hk, decide_true, Bool.true_and]
  rw [if_neg (by omega), if_neg (by omega), if_neg (by omega), if_neg (by omega),
    Nat.add_sub_cancel_left]

theorem fieldIdx_assembleWord (op i r g b : Byte) : fieldIdx (assembleWord op i r g b) = i := by
  refine BitVec.eq_of_getLsbD_eq fun k hk => ?_
  simp only [fieldIdx, BitVec.getLsbD_extractLsb', getLsbD_assembleWord, hk, decide_true, Bool.true_and]
  rw [if_neg (by omega), if_neg (by omega), if_neg (by omega), if_pos (by omega),
    Nat.add_sub_cancel_left]

theorem fieldR_assembleWord (op i r g b : Byte) : fieldR (assembleWord op i r g b) = r := by
  refine BitVec.eq_of_getLsbD_eq fun k hk => ?_
  simp only [fieldR, BitVec.getLsbD_extractLsb', getLsbD_assembleWord, hk, decide_true, Bool.true_and]
  rw [if_neg (by omega), if_neg (by omega), if_pos (by omega), Nat.add_sub_cancel_left]

theorem fieldG_assembleWord (op i r g b : Byte) : fieldG (assembleWord op i r g b) = g := by
  refine BitVec.eq_of_getLsbD_eq fun k hk => ?_
  simp only [fieldG, BitVec.getLsbD_extractLsb', getLsbD_assembleWord, hk, decide_true, Bool.true_and]
  rw [if_neg (by omega), if_pos (by omega), Nat.add_sub_cancel_left]

theorem fieldB_assembleWord (op i r g b : Byte) : fieldB (assembleWord op i r g b) = b := by
  refine BitVec.eq_of_getLsbD_eq fun k hk => ?_
  simp only [fieldB, BitVec.getLsbD_extractLsb', getLsbD_assembleWord, hk, decide_true, Bool.true_and]
  rw [if_pos (by omega), Nat.zero_add]

/-- Two assembled words are equal when their fields are. -/
theorem assembleWord_inj {op i r g b op' i' r' g' b' : Byte} :
    assembleWord op i r g b = assembleWord op' i' r' g' b' ↔
      op = op' ∧ i = i' ∧ r = r' ∧ g = g' ∧ b = b' := by
  refine ⟨fun h => ?_, fun ⟨h1, h2, h3, h4, h5⟩ => by rw [h1, h2, h3, h4, h5]⟩
  have f := fun k : Word → Byte => congrArg k h
  have h1 := f fieldOp
  have h2 := f fieldIdx
  have h3 := f fieldR
  have h4 := f fieldG
  have h5 := f fieldB
  simp only [fieldOp_assembleWord] at h1
  simp only [fieldIdx_assembleWord] at h2
  simp only [fieldR_assembleWord] at h3
  simp only [fieldG_assembleWord] at h4
  simp only [fieldB_assembleWord] at h5
  exact ⟨h1, h2, h3, h4, h5⟩

/-- Every word is the word of its fields. -/
theorem assembleWord_fields (w : Word) :
    assembleWord (fieldOp w) (fieldIdx w) (fieldR w) (fieldG w) (fieldB w) = w := by
  refine BitVec.eq_of_getLsbD_eq fun k hk => ?_
  rw [getLsbD_assembleWord]
  unfold fieldOp fieldIdx fieldR fieldG fieldB
  simp only [BitVec.getLsbD_extractLsb']
  split_ifs with h1 h2 h3 h4
  · simp [h1]
  · simp [show k - 8 < 8 by omega, show 8 + (k - 8) = k by omega]
  · simp [show k - 16 < 8 by omega, show 16 + (k - 16) = k by omega]
  · simp [show k - 24 < 8 by omega, show 24 + (k - 24) = k by omega]
  · simp [show k - 32 < 8 by omega, show 32 + (k - 32) = k by omega]

/-- A mask works field by field. -/
theorem assembleWord_and (op i r g b op' i' r' g' b' : Byte) :
    assembleWord op i r g b &&& assembleWord op' i' r' g' b' =
      assembleWord (op &&& op') (i &&& i') (r &&& r') (g &&& g') (b &&& b') := by
  refine BitVec.eq_of_getLsbD_eq fun k hk => ?_
  simp only [BitVec.getLsbD_and, getLsbD_assembleWord]
  split_ifs <;> rfl

end Sys2Proof
end

