-- ==== Sys2Proof/Laws/State.lean ====
section
/-! SUPPORT. What each named update does to each field of State: one lemma per field, so that no later
proof unfolds a record update. -/

namespace Sys2Proof.Machine

/-! ### `respond` -/

@[simp] theorem respond_cfg (c d2 d1 d0 : Byte) (s : State) : (respond c d2 d1 d0 s).cfg = s.cfg := rfl
@[simp] theorem respond_pix (c d2 d1 d0 : Byte) (s : State) : (respond c d2 d1 d0 s).pix = s.pix := rfl
@[simp] theorem respond_initd (c d2 d1 d0 : Byte) (s : State) : (respond c d2 d1 d0 s).initd = s.initd := rfl
@[simp] theorem respond_fatal (c d2 d1 d0 : Byte) (s : State) : (respond c d2 d1 d0 s).fatal = s.fatal := rfl
@[simp] theorem respond_idxf (c d2 d1 d0 : Byte) (s : State) : (respond c d2 d1 d0 s).idxf = s.idxf := rfl
@[simp] theorem respond_illf (c d2 d1 d0 : Byte) (s : State) : (respond c d2 d1 d0 s).illf = s.illf := rfl
@[simp] theorem respond_seqf (c d2 d1 d0 : Byte) (s : State) : (respond c d2 d1 d0 s).seqf = s.seqf := rfl
@[simp] theorem respond_mode (c d2 d1 d0 : Byte) (s : State) : (respond c d2 d1 d0 s).mode = s.mode := rfl
@[simp] theorem respond_clrIdx (c d2 d1 d0 : Byte) (s : State) : (respond c d2 d1 d0 s).clrIdx = s.clrIdx := rfl
@[simp] theorem respond_cell (c d2 d1 d0 : Byte) (s : State) : (respond c d2 d1 d0 s).cell = s.cell := rfl
@[simp] theorem respond_chan (c d2 d1 d0 : Byte) (s : State) : (respond c d2 d1 d0 s).chan = s.chan := rfl
@[simp] theorem respond_q (c d2 d1 d0 : Byte) (s : State) : (respond c d2 d1 d0 s).q = s.q := rfl
@[simp] theorem respond_shifting (c d2 d1 d0 : Byte) (s : State) : (respond c d2 d1 d0 s).shifting = s.shifting := rfl
@[simp] theorem respond_sr (c d2 d1 d0 : Byte) (s : State) : (respond c d2 d1 d0 s).sr = s.sr := rfl
@[simp] theorem respond_nbit (c d2 d1 d0 : Byte) (s : State) : (respond c d2 d1 d0 s).nbit = s.nbit := rfl
@[simp] theorem respond_tcnt (c d2 d1 d0 : Byte) (s : State) : (respond c d2 d1 d0 s).tcnt = s.tcnt := rfl
@[simp] theorem respond_gapCnt (c d2 d1 d0 : Byte) (s : State) : (respond c d2 d1 d0 s).gapCnt = s.gapCnt := rfl
@[simp] theorem respond_rspv (c d2 d1 d0 : Byte) (s : State) : (respond c d2 d1 d0 s).rspv = true := rfl
@[simp] theorem respond_rspd (c d2 d1 d0 : Byte) (s : State) : (respond c d2 d1 d0 s).rspd = rspWord c d2 d1 d0 := rfl
@[simp] theorem respond_pins (c d2 d1 d0 : Byte) (s : State) : (respond c d2 d1 d0 s).pins = s.pins := rfl
@[simp] theorem respond_hold (c d2 d1 d0 : Byte) (s : State) : (respond c d2 d1 d0 s).hold = s.hold := rfl
@[simp] theorem respond_script (c d2 d1 d0 : Byte) (s : State) : (respond c d2 d1 d0 s).script = s.script := rfl
@[simp] theorem respond_rstAt (c d2 d1 d0 : Byte) (s : State) : (respond c d2 d1 d0 s).rstAt = s.rstAt := rfl
@[simp] theorem respond_edge (c d2 d1 d0 : Byte) (s : State) : (respond c d2 d1 d0 s).edge = s.edge := rfl
@[simp] theorem respond_chain (c d2 d1 d0 : Byte) (s : State) : (respond c d2 d1 d0 s).chain = s.chain := rfl

/-! ### `respondOk` -/

@[simp] theorem respondOk_cfg (s : State) : (respondOk s).cfg = s.cfg := rfl
@[simp] theorem respondOk_pix (s : State) : (respondOk s).pix = s.pix := rfl
@[simp] theorem respondOk_initd (s : State) : (respondOk s).initd = s.initd := rfl
@[simp] theorem respondOk_fatal (s : State) : (respondOk s).fatal = s.fatal := rfl
@[simp] theorem respondOk_idxf (s : State) : (respondOk s).idxf = s.idxf := rfl
@[simp] theorem respondOk_illf (s : State) : (respondOk s).illf = s.illf := rfl
@[simp] theorem respondOk_seqf (s : State) : (respondOk s).seqf = s.seqf := rfl
@[simp] theorem respondOk_mode (s : State) : (respondOk s).mode = s.mode := rfl
@[simp] theorem respondOk_clrIdx (s : State) : (respondOk s).clrIdx = s.clrIdx := rfl
@[simp] theorem respondOk_cell (s : State) : (respondOk s).cell = s.cell := rfl
@[simp] theorem respondOk_chan (s : State) : (respondOk s).chan = s.chan := rfl
@[simp] theorem respondOk_q (s : State) : (respondOk s).q = s.q := rfl
@[simp] theorem respondOk_shifting (s : State) : (respondOk s).shifting = s.shifting := rfl
@[simp] theorem respondOk_sr (s : State) : (respondOk s).sr = s.sr := rfl
@[simp] theorem respondOk_nbit (s : State) : (respondOk s).nbit = s.nbit := rfl
@[simp] theorem respondOk_tcnt (s : State) : (respondOk s).tcnt = s.tcnt := rfl
@[simp] theorem respondOk_gapCnt (s : State) : (respondOk s).gapCnt = s.gapCnt := rfl
@[simp] theorem respondOk_rspv (s : State) : (respondOk s).rspv = true := rfl
@[simp] theorem respondOk_rspd (s : State) : (respondOk s).rspd = 0 := rfl
@[simp] theorem respondOk_pins (s : State) : (respondOk s).pins = s.pins := rfl
@[simp] theorem respondOk_hold (s : State) : (respondOk s).hold = s.hold := rfl
@[simp] theorem respondOk_script (s : State) : (respondOk s).script = s.script := rfl
@[simp] theorem respondOk_rstAt (s : State) : (respondOk s).rstAt = s.rstAt := rfl
@[simp] theorem respondOk_edge (s : State) : (respondOk s).edge = s.edge := rfl
@[simp] theorem respondOk_chain (s : State) : (respondOk s).chain = s.chain := rfl

/-! ### `clearResponse` -/

@[simp] theorem clearResponse_cfg (s : State) : (clearResponse s).cfg = s.cfg := rfl
@[simp] theorem clearResponse_pix (s : State) : (clearResponse s).pix = s.pix := rfl
@[simp] theorem clearResponse_initd (s : State) : (clearResponse s).initd = s.initd := rfl
@[simp] theorem clearResponse_fatal (s : State) : (clearResponse s).fatal = s.fatal := rfl
@[simp] theorem clearResponse_idxf (s : State) : (clearResponse s).idxf = s.idxf := rfl
@[simp] theorem clearResponse_illf (s : State) : (clearResponse s).illf = s.illf := rfl
@[simp] theorem clearResponse_seqf (s : State) : (clearResponse s).seqf = s.seqf := rfl
@[simp] theorem clearResponse_mode (s : State) : (clearResponse s).mode = s.mode := rfl
@[simp] theorem clearResponse_clrIdx (s : State) : (clearResponse s).clrIdx = s.clrIdx := rfl
@[simp] theorem clearResponse_cell (s : State) : (clearResponse s).cell = s.cell := rfl
@[simp] theorem clearResponse_chan (s : State) : (clearResponse s).chan = s.chan := rfl
@[simp] theorem clearResponse_q (s : State) : (clearResponse s).q = s.q := rfl
@[simp] theorem clearResponse_shifting (s : State) : (clearResponse s).shifting = s.shifting := rfl
@[simp] theorem clearResponse_sr (s : State) : (clearResponse s).sr = s.sr := rfl
@[simp] theorem clearResponse_nbit (s : State) : (clearResponse s).nbit = s.nbit := rfl
@[simp] theorem clearResponse_tcnt (s : State) : (clearResponse s).tcnt = s.tcnt := rfl
@[simp] theorem clearResponse_gapCnt (s : State) : (clearResponse s).gapCnt = s.gapCnt := rfl
@[simp] theorem clearResponse_rspv (s : State) : (clearResponse s).rspv = false := rfl
@[simp] theorem clearResponse_rspd (s : State) : (clearResponse s).rspd = 0 := rfl
@[simp] theorem clearResponse_pins (s : State) : (clearResponse s).pins = s.pins := rfl
@[simp] theorem clearResponse_hold (s : State) : (clearResponse s).hold = s.hold := rfl
@[simp] theorem clearResponse_script (s : State) : (clearResponse s).script = s.script := rfl
@[simp] theorem clearResponse_rstAt (s : State) : (clearResponse s).rstAt = s.rstAt := rfl
@[simp] theorem clearResponse_edge (s : State) : (clearResponse s).edge = s.edge := rfl
@[simp] theorem clearResponse_chain (s : State) : (clearResponse s).chain = s.chain := rfl

/-! ### `raiseFault` -/

@[simp] theorem raiseFault_cfg (f : CmdFault) (s : State) : (raiseFault f s).cfg = s.cfg := by cases f <;> simp [raiseFault, setFaultFlag, respond]
@[simp] theorem raiseFault_pix (f : CmdFault) (s : State) : (raiseFault f s).pix = s.pix := by cases f <;> simp [raiseFault, setFaultFlag, respond]
@[simp] theorem raiseFault_initd (f : CmdFault) (s : State) : (raiseFault f s).initd = s.initd := by cases f <;> simp [raiseFault, setFaultFlag, respond]
@[simp] theorem raiseFault_fatal (f : CmdFault) (s : State) : (raiseFault f s).fatal = (s.fatal || f = .noChan) := by cases f <;> simp [raiseFault, setFaultFlag, respond]
@[simp] theorem raiseFault_idxf (f : CmdFault) (s : State) : (raiseFault f s).idxf = (s.idxf || f = .index) := by cases f <;> simp [raiseFault, setFaultFlag, respond]
@[simp] theorem raiseFault_illf (f : CmdFault) (s : State) : (raiseFault f s).illf = (s.illf || f = .illegal) := by cases f <;> simp [raiseFault, setFaultFlag, respond]
@[simp] theorem raiseFault_seqf (f : CmdFault) (s : State) : (raiseFault f s).seqf = (s.seqf || (f = .notInit || f = .reinit)) := by cases f <;> simp [raiseFault, setFaultFlag, respond]
@[simp] theorem raiseFault_mode (f : CmdFault) (s : State) : (raiseFault f s).mode = s.mode := by cases f <;> simp [raiseFault, setFaultFlag, respond]
@[simp] theorem raiseFault_clrIdx (f : CmdFault) (s : State) : (raiseFault f s).clrIdx = s.clrIdx := by cases f <;> simp [raiseFault, setFaultFlag, respond]
@[simp] theorem raiseFault_cell (f : CmdFault) (s : State) : (raiseFault f s).cell = s.cell := by cases f <;> simp [raiseFault, setFaultFlag, respond]
@[simp] theorem raiseFault_chan (f : CmdFault) (s : State) : (raiseFault f s).chan = s.chan := by cases f <;> simp [raiseFault, setFaultFlag, respond]
@[simp] theorem raiseFault_q (f : CmdFault) (s : State) : (raiseFault f s).q = s.q := by cases f <;> simp [raiseFault, setFaultFlag, respond]
@[simp] theorem raiseFault_shifting (f : CmdFault) (s : State) : (raiseFault f s).shifting = s.shifting := by cases f <;> simp [raiseFault, setFaultFlag, respond]
@[simp] theorem raiseFault_sr (f : CmdFault) (s : State) : (raiseFault f s).sr = s.sr := by cases f <;> simp [raiseFault, setFaultFlag, respond]
@[simp] theorem raiseFault_nbit (f : CmdFault) (s : State) : (raiseFault f s).nbit = s.nbit := by cases f <;> simp [raiseFault, setFaultFlag, respond]
@[simp] theorem raiseFault_tcnt (f : CmdFault) (s : State) : (raiseFault f s).tcnt = s.tcnt := by cases f <;> simp [raiseFault, setFaultFlag, respond]
@[simp] theorem raiseFault_gapCnt (f : CmdFault) (s : State) : (raiseFault f s).gapCnt = s.gapCnt := by cases f <;> simp [raiseFault, setFaultFlag, respond]
@[simp] theorem raiseFault_rspv (f : CmdFault) (s : State) : (raiseFault f s).rspv = true := by cases f <;> simp [raiseFault, setFaultFlag, respond]
@[simp] theorem raiseFault_rspd (f : CmdFault) (s : State) : (raiseFault f s).rspd = rspWord (faultCode f) 0 0 0 := by cases f <;> simp [raiseFault, setFaultFlag, respond]
@[simp] theorem raiseFault_pins (f : CmdFault) (s : State) : (raiseFault f s).pins = s.pins := by cases f <;> simp [raiseFault, setFaultFlag, respond]
@[simp] theorem raiseFault_hold (f : CmdFault) (s : State) : (raiseFault f s).hold = s.hold := by cases f <;> simp [raiseFault, setFaultFlag, respond]
@[simp] theorem raiseFault_script (f : CmdFault) (s : State) : (raiseFault f s).script = s.script := by cases f <;> simp [raiseFault, setFaultFlag, respond]
@[simp] theorem raiseFault_rstAt (f : CmdFault) (s : State) : (raiseFault f s).rstAt = s.rstAt := by cases f <;> simp [raiseFault, setFaultFlag, respond]
@[simp] theorem raiseFault_edge (f : CmdFault) (s : State) : (raiseFault f s).edge = s.edge := by cases f <;> simp [raiseFault, setFaultFlag, respond]
@[simp] theorem raiseFault_chain (f : CmdFault) (s : State) : (raiseFault f s).chain = s.chain := by cases f <;> simp [raiseFault, setFaultFlag, respond]

/-! ### `resetBlock` -/

@[simp] theorem resetBlock_cfg (s : State) : (resetBlock s).cfg = s.cfg := rfl
@[simp] theorem resetBlock_pix (s : State) : (resetBlock s).pix = [] := rfl
@[simp] theorem resetBlock_initd (s : State) : (resetBlock s).initd = false := rfl
@[simp] theorem resetBlock_fatal (s : State) : (resetBlock s).fatal = false := rfl
@[simp] theorem resetBlock_idxf (s : State) : (resetBlock s).idxf = false := rfl
@[simp] theorem resetBlock_illf (s : State) : (resetBlock s).illf = false := rfl
@[simp] theorem resetBlock_seqf (s : State) : (resetBlock s).seqf = false := rfl
@[simp] theorem resetBlock_mode (s : State) : (resetBlock s).mode = .idle := rfl
@[simp] theorem resetBlock_clrIdx (s : State) : (resetBlock s).clrIdx = 0 := rfl
@[simp] theorem resetBlock_cell (s : State) : (resetBlock s).cell = 0 := rfl
@[simp] theorem resetBlock_chan (s : State) : (resetBlock s).chan = .green := rfl
@[simp] theorem resetBlock_q (s : State) : (resetBlock s).q = [] := rfl
@[simp] theorem resetBlock_shifting (s : State) : (resetBlock s).shifting = false := rfl
@[simp] theorem resetBlock_sr (s : State) : (resetBlock s).sr = 0 := rfl
@[simp] theorem resetBlock_nbit (s : State) : (resetBlock s).nbit = 0 := rfl
@[simp] theorem resetBlock_tcnt (s : State) : (resetBlock s).tcnt = 0 := rfl
@[simp] theorem resetBlock_gapCnt (s : State) : (resetBlock s).gapCnt = 0 := rfl
@[simp] theorem resetBlock_rspv (s : State) : (resetBlock s).rspv = false := rfl
@[simp] theorem resetBlock_rspd (s : State) : (resetBlock s).rspd = 0 := rfl
@[simp] theorem resetBlock_pins (s : State) : (resetBlock s).pins = s.pins := rfl
@[simp] theorem resetBlock_hold (s : State) : (resetBlock s).hold = s.hold := rfl
@[simp] theorem resetBlock_script (s : State) : (resetBlock s).script = s.script := rfl
@[simp] theorem resetBlock_rstAt (s : State) : (resetBlock s).rstAt = s.rstAt := rfl
@[simp] theorem resetBlock_edge (s : State) : (resetBlock s).edge = s.edge := rfl
@[simp] theorem resetBlock_chain (s : State) : (resetBlock s).chain = s.chain := rfl

/-! ### `observePeriod` -/

@[simp] theorem observePeriod_cfg (s : State) : (observePeriod s).cfg = s.cfg := rfl
@[simp] theorem observePeriod_pix (s : State) : (observePeriod s).pix = s.pix := rfl
@[simp] theorem observePeriod_initd (s : State) : (observePeriod s).initd = s.initd := rfl
@[simp] theorem observePeriod_fatal (s : State) : (observePeriod s).fatal = s.fatal := rfl
@[simp] theorem observePeriod_idxf (s : State) : (observePeriod s).idxf = s.idxf := rfl
@[simp] theorem observePeriod_illf (s : State) : (observePeriod s).illf = s.illf := rfl
@[simp] theorem observePeriod_seqf (s : State) : (observePeriod s).seqf = s.seqf := rfl
@[simp] theorem observePeriod_mode (s : State) : (observePeriod s).mode = s.mode := rfl
@[simp] theorem observePeriod_clrIdx (s : State) : (observePeriod s).clrIdx = s.clrIdx := rfl
@[simp] theorem observePeriod_cell (s : State) : (observePeriod s).cell = s.cell := rfl
@[simp] theorem observePeriod_chan (s : State) : (observePeriod s).chan = s.chan := rfl
@[simp] theorem observePeriod_q (s : State) : (observePeriod s).q = s.q := rfl
@[simp] theorem observePeriod_shifting (s : State) : (observePeriod s).shifting = s.shifting := rfl
@[simp] theorem observePeriod_sr (s : State) : (observePeriod s).sr = s.sr := rfl
@[simp] theorem observePeriod_nbit (s : State) : (observePeriod s).nbit = s.nbit := rfl
@[simp] theorem observePeriod_tcnt (s : State) : (observePeriod s).tcnt = s.tcnt := rfl
@[simp] theorem observePeriod_gapCnt (s : State) : (observePeriod s).gapCnt = s.gapCnt := rfl
@[simp] theorem observePeriod_rspv (s : State) : (observePeriod s).rspv = s.rspv := rfl
@[simp] theorem observePeriod_rspd (s : State) : (observePeriod s).rspd = s.rspd := rfl
@[simp] theorem observePeriod_pins (s : State) : (observePeriod s).pins = s.pins := rfl
@[simp] theorem observePeriod_hold (s : State) : (observePeriod s).hold = s.hold := rfl
@[simp] theorem observePeriod_script (s : State) : (observePeriod s).script = s.script := rfl
@[simp] theorem observePeriod_rstAt (s : State) : (observePeriod s).rstAt = s.rstAt := rfl
@[simp] theorem observePeriod_edge (s : State) : (observePeriod s).edge = s.edge := rfl
@[simp] theorem observePeriod_chain (s : State) : (observePeriod s).chain = observe s.cfg (line s) s.chain := rfl

/-! ### `driveEdge` -/

@[simp] theorem driveEdge_cfg (e : Nat) (due : Bool) (d : Drive) (s : State) : (driveEdge e due d s).cfg = s.cfg := rfl
@[simp] theorem driveEdge_pix (e : Nat) (due : Bool) (d : Drive) (s : State) : (driveEdge e due d s).pix = s.pix := rfl
@[simp] theorem driveEdge_initd (e : Nat) (due : Bool) (d : Drive) (s : State) : (driveEdge e due d s).initd = s.initd := rfl
@[simp] theorem driveEdge_fatal (e : Nat) (due : Bool) (d : Drive) (s : State) : (driveEdge e due d s).fatal = s.fatal := rfl
@[simp] theorem driveEdge_idxf (e : Nat) (due : Bool) (d : Drive) (s : State) : (driveEdge e due d s).idxf = s.idxf := rfl
@[simp] theorem driveEdge_illf (e : Nat) (due : Bool) (d : Drive) (s : State) : (driveEdge e due d s).illf = s.illf := rfl
@[simp] theorem driveEdge_seqf (e : Nat) (due : Bool) (d : Drive) (s : State) : (driveEdge e due d s).seqf = s.seqf := rfl
@[simp] theorem driveEdge_mode (e : Nat) (due : Bool) (d : Drive) (s : State) : (driveEdge e due d s).mode = s.mode := rfl
@[simp] theorem driveEdge_clrIdx (e : Nat) (due : Bool) (d : Drive) (s : State) : (driveEdge e due d s).clrIdx = s.clrIdx := rfl
@[simp] theorem driveEdge_cell (e : Nat) (due : Bool) (d : Drive) (s : State) : (driveEdge e due d s).cell = s.cell := rfl
@[simp] theorem driveEdge_chan (e : Nat) (due : Bool) (d : Drive) (s : State) : (driveEdge e due d s).chan = s.chan := rfl
@[simp] theorem driveEdge_q (e : Nat) (due : Bool) (d : Drive) (s : State) : (driveEdge e due d s).q = s.q := rfl
@[simp] theorem driveEdge_shifting (e : Nat) (due : Bool) (d : Drive) (s : State) : (driveEdge e due d s).shifting = s.shifting := rfl
@[simp] theorem driveEdge_sr (e : Nat) (due : Bool) (d : Drive) (s : State) : (driveEdge e due d s).sr = s.sr := rfl
@[simp] theorem driveEdge_nbit (e : Nat) (due : Bool) (d : Drive) (s : State) : (driveEdge e due d s).nbit = s.nbit := rfl
@[simp] theorem driveEdge_tcnt (e : Nat) (due : Bool) (d : Drive) (s : State) : (driveEdge e due d s).tcnt = s.tcnt := rfl
@[simp] theorem driveEdge_gapCnt (e : Nat) (due : Bool) (d : Drive) (s : State) : (driveEdge e due d s).gapCnt = s.gapCnt := rfl
@[simp] theorem driveEdge_rspv (e : Nat) (due : Bool) (d : Drive) (s : State) : (driveEdge e due d s).rspv = s.rspv := rfl
@[simp] theorem driveEdge_rspd (e : Nat) (due : Bool) (d : Drive) (s : State) : (driveEdge e due d s).rspd = s.rspd := rfl
@[simp] theorem driveEdge_pins (e : Nat) (due : Bool) (d : Drive) (s : State) : (driveEdge e due d s).pins = { d.pins with rst := d.pins.rst || due } := rfl
@[simp] theorem driveEdge_hold (e : Nat) (due : Bool) (d : Drive) (s : State) : (driveEdge e due d s).hold = d.hold := rfl
@[simp] theorem driveEdge_script (e : Nat) (due : Bool) (d : Drive) (s : State) : (driveEdge e due d s).script = d.rest := rfl
@[simp] theorem driveEdge_rstAt (e : Nat) (due : Bool) (d : Drive) (s : State) : (driveEdge e due d s).rstAt = s.rstAt := rfl
@[simp] theorem driveEdge_edge (e : Nat) (due : Bool) (d : Drive) (s : State) : (driveEdge e due d s).edge = e := rfl
@[simp] theorem driveEdge_chain (e : Nat) (due : Bool) (d : Drive) (s : State) : (driveEdge e due d s).chain = s.chain := rfl

/-! ### `hostAdvance` -/

@[simp] theorem hostAdvance_cfg (a : Bool) (s : State) : (hostAdvance a s).cfg = s.cfg := rfl
@[simp] theorem hostAdvance_pix (a : Bool) (s : State) : (hostAdvance a s).pix = s.pix := rfl
@[simp] theorem hostAdvance_initd (a : Bool) (s : State) : (hostAdvance a s).initd = s.initd := rfl
@[simp] theorem hostAdvance_fatal (a : Bool) (s : State) : (hostAdvance a s).fatal = s.fatal := rfl
@[simp] theorem hostAdvance_idxf (a : Bool) (s : State) : (hostAdvance a s).idxf = s.idxf := rfl
@[simp] theorem hostAdvance_illf (a : Bool) (s : State) : (hostAdvance a s).illf = s.illf := rfl
@[simp] theorem hostAdvance_seqf (a : Bool) (s : State) : (hostAdvance a s).seqf = s.seqf := rfl
@[simp] theorem hostAdvance_mode (a : Bool) (s : State) : (hostAdvance a s).mode = s.mode := rfl
@[simp] theorem hostAdvance_clrIdx (a : Bool) (s : State) : (hostAdvance a s).clrIdx = s.clrIdx := rfl
@[simp] theorem hostAdvance_cell (a : Bool) (s : State) : (hostAdvance a s).cell = s.cell := rfl
@[simp] theorem hostAdvance_chan (a : Bool) (s : State) : (hostAdvance a s).chan = s.chan := rfl
@[simp] theorem hostAdvance_q (a : Bool) (s : State) : (hostAdvance a s).q = s.q := rfl
@[simp] theorem hostAdvance_shifting (a : Bool) (s : State) : (hostAdvance a s).shifting = s.shifting := rfl
@[simp] theorem hostAdvance_sr (a : Bool) (s : State) : (hostAdvance a s).sr = s.sr := rfl
@[simp] theorem hostAdvance_nbit (a : Bool) (s : State) : (hostAdvance a s).nbit = s.nbit := rfl
@[simp] theorem hostAdvance_tcnt (a : Bool) (s : State) : (hostAdvance a s).tcnt = s.tcnt := rfl
@[simp] theorem hostAdvance_gapCnt (a : Bool) (s : State) : (hostAdvance a s).gapCnt = s.gapCnt := rfl
@[simp] theorem hostAdvance_rspv (a : Bool) (s : State) : (hostAdvance a s).rspv = s.rspv := rfl
@[simp] theorem hostAdvance_rspd (a : Bool) (s : State) : (hostAdvance a s).rspd = s.rspd := rfl
@[simp] theorem hostAdvance_rstAt (a : Bool) (s : State) : (hostAdvance a s).rstAt = s.rstAt := rfl
@[simp] theorem hostAdvance_edge (a : Bool) (s : State) : (hostAdvance a s).edge = nextEdge s := rfl
@[simp] theorem hostAdvance_chain (a : Bool) (s : State) : (hostAdvance a s).chain = s.chain := rfl

/-! ### `afterEdge` -/

@[simp] theorem afterEdge_cfg (a : Bool) (s : State) : (afterEdge a s).cfg = s.cfg := rfl
@[simp] theorem afterEdge_pix (a : Bool) (s : State) : (afterEdge a s).pix = s.pix := rfl
@[simp] theorem afterEdge_initd (a : Bool) (s : State) : (afterEdge a s).initd = s.initd := rfl
@[simp] theorem afterEdge_fatal (a : Bool) (s : State) : (afterEdge a s).fatal = s.fatal := rfl
@[simp] theorem afterEdge_idxf (a : Bool) (s : State) : (afterEdge a s).idxf = s.idxf := rfl
@[simp] theorem afterEdge_illf (a : Bool) (s : State) : (afterEdge a s).illf = s.illf := rfl
@[simp] theorem afterEdge_seqf (a : Bool) (s : State) : (afterEdge a s).seqf = s.seqf := rfl
@[simp] theorem afterEdge_mode (a : Bool) (s : State) : (afterEdge a s).mode = s.mode := rfl
@[simp] theorem afterEdge_clrIdx (a : Bool) (s : State) : (afterEdge a s).clrIdx = s.clrIdx := rfl
@[simp] theorem afterEdge_cell (a : Bool) (s : State) : (afterEdge a s).cell = s.cell := rfl
@[simp] theorem afterEdge_chan (a : Bool) (s : State) : (afterEdge a s).chan = s.chan := rfl
@[simp] theorem afterEdge_q (a : Bool) (s : State) : (afterEdge a s).q = s.q := rfl
@[simp] theorem afterEdge_shifting (a : Bool) (s : State) : (afterEdge a s).shifting = s.shifting := rfl
@[simp] theorem afterEdge_sr (a : Bool) (s : State) : (afterEdge a s).sr = s.sr := rfl
@[simp] theorem afterEdge_nbit (a : Bool) (s : State) : (afterEdge a s).nbit = s.nbit := rfl
@[simp] theorem afterEdge_tcnt (a : Bool) (s : State) : (afterEdge a s).tcnt = s.tcnt := rfl
@[simp] theorem afterEdge_gapCnt (a : Bool) (s : State) : (afterEdge a s).gapCnt = s.gapCnt := rfl
@[simp] theorem afterEdge_rspv (a : Bool) (s : State) : (afterEdge a s).rspv = s.rspv := rfl
@[simp] theorem afterEdge_rspd (a : Bool) (s : State) : (afterEdge a s).rspd = s.rspd := rfl
@[simp] theorem afterEdge_rstAt (a : Bool) (s : State) : (afterEdge a s).rstAt = s.rstAt := rfl
@[simp] theorem afterEdge_edge (a : Bool) (s : State) : (afterEdge a s).edge = nextEdge s := rfl
@[simp] theorem afterEdge_chain (a : Bool) (s : State) : (afterEdge a s).chain = observe s.cfg (line s) s.chain := rfl

end Sys2Proof.Machine
end

