-- ==== Sys2Proof/Laws/Store.lean ====
section
/-! SUPPORT. The pixel store: reading after writing, the canonical form, the addresses listed. -/

namespace Sys2Proof.Machine

/-! ### One byte -/

theorem readByte_cons (a : Nat) (v : Byte) (m : Memory) (b : Nat) :
    readByte ((a, v) :: m) b = if b = a then v else readByte m b := by
  by_cases h : b = a
  · subst h; simp [readByte]
  · rw [readByte, if_neg (Ne.symm h), if_neg h]

theorem readByte_of_lt {m : Memory} {a : Nat} (h : ∀ c ∈ m, a < c.1) : readByte m a = 0 := by
  induction m with
  | nil => rfl
  | cons c m ih =>
    have hc := h c List.mem_cons_self
    simp only [readByte]
    rw [if_neg (by omega)]
    exact ih fun d hd => h d (List.mem_cons_of_mem _ hd)

theorem readByte_consCell {m : Memory} {a : Nat} (h : ∀ c ∈ m, a < c.1) (v : Byte) (b : Nat) :
    readByte (consCell a v m) b = if b = a then v else readByte m b := by
  unfold consCell
  split
  · next hv =>
    split
    · next hb => rw [hb, hv, readByte_of_lt h]
    · rfl
  · exact readByte_cons a v m b

/-- A byte reads as written, every other byte as before. -/
theorem readByte_writeByte {m : Memory} (h : m.wf) (a : Nat) (v : Byte) (b : Nat) :
    readByte (writeByte m a v) b = if b = a then v else readByte m b := by
  induction m with
  | nil => exact readByte_consCell (by simp) v b
  | cons c m ih =>
    obtain ⟨⟨hlt, hp⟩, hnz⟩ : (_ ∧ _) ∧ _ := ⟨List.pairwise_cons.1 h.1, h.2⟩
    have ih := ih ⟨hp, fun d hd => hnz d (List.mem_cons_of_mem _ hd)⟩
    simp only [writeByte]
    split
    · next hac =>
      rw [readByte_consCell]
      intro d hd
      rcases List.mem_cons.1 hd with rfl | hd
      · exact hac
      · exact hac.trans (hlt d hd)
    · split
      · next hac =>
        rw [readByte_consCell (by rw [hac]; exact hlt)]
        rw [show c = (a, c.2) from Prod.ext hac.symm rfl, readByte_cons]
        split <;> rfl
      · next hac =>
        obtain ⟨k, w⟩ := c
        rw [readByte_cons, readByte_cons, ih]
        split
        · next hb => rw [if_neg (by simp only at hac; omega)]
        · rfl

@[simp] theorem readByte_nil (a : Nat) : readByte [] a = 0 := rfl

/-! ### The canonical form -/

@[simp] theorem Memory.wf_nil : Memory.wf [] := ⟨.nil, fun _ h => nomatch h⟩

theorem mem_consCell {a : Nat} {v : Byte} {m : Memory} {c : Host.Cell} (h : c ∈ consCell a v m) :
    c = (a, v) ∨ c ∈ m := by
  unfold consCell at h
  split at h
  · exact .inr h
  · exact List.mem_cons.1 h

theorem wf_consCell {m : Memory} (h : m.wf) {a : Nat} (hlt : ∀ c ∈ m, a < c.1) (v : Byte) :
    (consCell a v m).wf := by
  unfold consCell
  split
  · exact h
  · next hv =>
    refine ⟨List.pairwise_cons.2 ⟨hlt, h.1⟩, fun c hc => ?_⟩
    rcases List.mem_cons.1 hc with rfl | hc
    · exact hv
    · exact h.2 c hc

/-- Only the written address can become listed. -/
theorem mem_writeByte {m : Memory} {a : Nat} {v : Byte} {c : Host.Cell} (h : c ∈ writeByte m a v) :
    c = (a, v) ∨ c ∈ m := by
  induction m with
  | nil => exact mem_consCell h
  | cons d m ih =>
    simp only [writeByte] at h
    split at h
    · exact mem_consCell h
    · split at h
      · exact (mem_consCell h).imp_right (List.mem_cons_of_mem _)
      · rcases List.mem_cons.1 h with rfl | h
        · exact .inr List.mem_cons_self
        · exact (ih h).imp_right (List.mem_cons_of_mem _)

/-- Writing a byte keeps the canonical form. -/
theorem wf_writeByte {m : Memory} (h : m.wf) (a : Nat) (v : Byte) : (writeByte m a v).wf := by
  induction m with
  | nil => exact wf_consCell h (by simp) v
  | cons c m ih =>
    obtain ⟨hlt, hp⟩ := List.pairwise_cons.1 h.1
    have hm : Memory.wf m := ⟨hp, fun d hd => h.2 d (List.mem_cons_of_mem _ hd)⟩
    simp only [writeByte]
    split
    · next hac =>
      refine wf_consCell h (fun d hd => ?_) v
      rcases List.mem_cons.1 hd with rfl | hd
      · exact hac
      · exact hac.trans (hlt d hd)
    · split
      · next hac =>
        exact wf_consCell hm (fun d hd => hac ▸ hlt d hd) v
      · next hge hne =>
        have hw := ih hm
        refine ⟨List.pairwise_cons.2 ⟨fun d hd => ?_, hw.1⟩, fun d hd => ?_⟩
        · rcases mem_writeByte hd with rfl | hd
          · simp only; omega
          · exact hlt d hd
        · rcases List.mem_cons.1 hd with rfl | hd
          · exact h.2 _ List.mem_cons_self
          · exact hw.2 d hd

/-! ### One pixel -/

theorem wf_writePixel {m : Memory} (h : m.wf) (i : Nat) (p : Pixel) : (writePixel m i p).wf :=
  wf_writeByte (wf_writeByte (wf_writeByte h _ _) _ _) _ _

/-- A pixel write changes the three bytes of its cell. -/
theorem readByte_writePixel {m : Memory} (h : m.wf) (i : Nat) (p : Pixel) (a : Nat) :
    readByte (writePixel m i p) a =
      if a = 3 * i then p.r else if a = 3 * i + 1 then p.g else if a = 3 * i + 2 then p.b
      else readByte m a := by
  have h1 := wf_writeByte h (channelAddr i .red) p.r
  have h2 := wf_writeByte h1 (channelAddr i .green) p.g
  rw [writePixel, readByte_writeByte h2, readByte_writeByte h1, readByte_writeByte h]
  simp only [channelAddr]
  by_cases ha : a = 3 * i
  · simp [ha]
  by_cases hb : a = 3 * i + 1
  · simp [hb]
  · simp [ha, hb]

/-- A channel of another cell reads as before. -/
theorem readByte_writePixel_other {m : Memory} (h : m.wf) {i j : Nat} (p : Pixel) (hji : j ≠ i) (c : Chan) :
    readByte (writePixel m i p) (channelAddr j c) = readByte m (channelAddr j c) := by
  rw [readByte_writePixel h]
  have outside : ∀ d, channelAddr j c ≠ channelAddr i d := by
    intro d
    cases c <;> cases d <;> simp only [channelAddr] <;> omega
  exact (if_neg (outside .red)).trans ((if_neg (outside .green)).trans (if_neg (outside .blue)))

/-- Set then get; every other cell keeps its pixel. -/
theorem readPixel_writePixel {m : Memory} (h : m.wf) (i : Nat) (p : Pixel) (j : Nat) :
    readPixel (writePixel m i p) j = if j = i then p else readPixel m j := by
  by_cases hji : j = i
  · subst hji
    simp [readPixel, readByte_writePixel h, channelAddr]
  · simp only [readPixel, readByte_writePixel_other h p hji, if_neg hji]

/-- Only the three addresses of the cell can become listed. -/
theorem mem_writePixel {m : Memory} {i : Nat} {p : Pixel} {c : Host.Cell} (h : c ∈ writePixel m i p) :
    c ∈ m ∨ (3 * i ≤ c.1 ∧ c.1 < 3 * i + 3) := by
  rcases mem_writeByte h with rfl | h
  · exact .inr (by simp [channelAddr])
  rcases mem_writeByte h with rfl | h
  · exact .inr (by simp [channelAddr])
  rcases mem_writeByte h with rfl | h
  · exact .inr (by simp [channelAddr])
  exact .inl h

@[simp] theorem readPixel_nil (i : Nat) : readPixel [] i = Pixel.black := rfl

end Sys2Proof.Machine
end

