-- ==== Sys2Proof/Laws/Ops.lean ====
section
/-! SUPPORT. For each shared operation, once, everything it can do. -/

namespace Sys2Proof.Machine

@[simp] theorem onNext_next (s : State) (k : State → Host.Outcome State Fault Refusal) :
    onNext (.next s) k = k s := rfl

@[simp] theorem onNext_fault (r : Fault) (k : State → Host.Outcome State Fault Refusal) :
    onNext (.fault r) k = .fault r := rfl

@[simp] theorem onNext_refused (r : Refusal) (k : State → Host.Outcome State Fault Refusal) :
    onNext (.refused r) k = .refused r := rfl

/-- Going on from an outcome answers a next state only through a next state. -/
theorem onNext_eq_next {o : Host.Outcome State Fault Refusal}
    {k : State → Host.Outcome State Fault Refusal} {u : State} (h : onNext o k = .next u) :
    ∃ t, o = .next t ∧ k t = .next u := by
  cases o with
  | next t => exact ⟨t, rfl, h⟩
  | fault r => cases h
  | refused r => cases h

/-! ### The store primitives -/

theorem storePixel_of_lt {i : Nat} {s : State} (h : i < s.cfg.n) (p : Pixel) :
    storePixel i p s = .next { s with pix := writePixel s.pix i p } := if_pos h

/-- A store answers a next state only for a mapped cell, and then changes nothing but the store. -/
theorem storePixel_eq_next {i : Nat} {p : Pixel} {s t : State} (h : storePixel i p s = .next t) :
    i < s.cfg.n ∧ t = { s with pix := writePixel s.pix i p } := by
  unfold storePixel at h
  split at h
  · next hi => exact ⟨hi, by cases h; rfl⟩
  · cases h

theorem withPixel_of_lt {i : Nat} {s : State} (h : i < s.cfg.n)
    (k : Pixel → Host.Outcome State Fault Refusal) : withPixel i s k = k (readPixel s.pix i) := if_pos h

/-- A load answers a next state only for a mapped cell. -/
theorem withPixel_eq_next {i : Nat} {s t : State} {k : Pixel → Host.Outcome State Fault Refusal}
    (h : withPixel i s k = .next t) : i < s.cfg.n ∧ k (readPixel s.pix i) = .next t := by
  unfold withPixel at h
  split at h
  · next hi => exact ⟨hi, h⟩
  · cases h

/-! ### The bounds check -/

theorem indexIllegal_iff (idx : Byte) (s : State) : indexIllegal idx s = true ↔ s.cfg.n ≤ idx.toNat := by
  simp [indexIllegal]

theorem withCell_of_lt {idx : Byte} {s : State} (h : idx.toNat < s.cfg.n)
    (k : Nat → Host.Outcome State Fault Refusal) : withCell idx s k = k idx.toNat :=
  if_neg (by simpa [indexIllegal] using h)

theorem withCell_of_le {idx : Byte} {s : State} (h : s.cfg.n ≤ idx.toNat)
    (k : Nat → Host.Outcome State Fault Refusal) : withCell idx s k = .next (raiseFault .index s) :=
  if_pos (by simpa [indexIllegal] using h)

/-- A checked index either raises `ERR_INDEX` or goes on as a mapped cell. -/
theorem withCell_eq_next {idx : Byte} {s t : State} {k : Nat → Host.Outcome State Fault Refusal}
    (h : withCell idx s k = .next t) :
    (s.cfg.n ≤ idx.toNat ∧ t = raiseFault .index s) ∨ (idx.toNat < s.cfg.n ∧ k idx.toNat = .next t) := by
  rcases Nat.lt_or_ge idx.toNat s.cfg.n with hi | hi
  · exact .inr ⟨hi, by rwa [withCell_of_lt hi] at h⟩
  · rw [withCell_of_le hi] at h
    exact .inl ⟨hi, by cases h; rfl⟩

/-! ### The command bodies -/

/-- What `SETPIX` can do. -/
theorem execSetPix_eq_next {idx r g b : Byte} {s t : State} (h : execSetPix idx r g b s = .next t) :
    (s.cfg.n ≤ idx.toNat ∧ t = raiseFault .index s) ∨
    (idx.toNat < s.cfg.n ∧ t = respondOk { s with pix := writePixel s.pix idx.toNat ⟨r, g, b⟩ }) := by
  rcases withCell_eq_next h with h | ⟨hi, h⟩
  · exact .inl h
  · obtain ⟨u, hu, h⟩ := onNext_eq_next h
    obtain ⟨-, rfl⟩ := storePixel_eq_next hu
    exact .inr ⟨hi, by cases h; rfl⟩

/-- What `CLEAR` can do. -/
theorem execClear_eq_next {s t : State} (h : execClear s = .next t) :
    0 < s.cfg.n ∧
    ((s.cfg.n = 1 ∧ t = respondOk { s with pix := writePixel s.pix 0 .black }) ∨
     (s.cfg.n ≠ 1 ∧ t = { s with pix := writePixel s.pix 0 .black, mode := .clr, clrIdx := 1 })) := by
  obtain ⟨u, hu, h⟩ := onNext_eq_next h
  obtain ⟨h0, rfl⟩ := storePixel_eq_next hu
  refine ⟨h0, ?_⟩
  split at h
  · next h1 => exact .inl ⟨h1, by cases h; rfl⟩
  · next h1 => exact .inr ⟨h1, by cases h; rfl⟩

/-- What `GET` can do. -/
theorem execGet_eq_next {idx : Byte} {s t : State} (h : execGet idx s = .next t) :
    (s.cfg.n ≤ idx.toNat ∧ t = raiseFault .index s) ∨
    (idx.toNat < s.cfg.n ∧
      t = respond okCode (readPixel s.pix idx.toNat).r (readPixel s.pix idx.toNat).g
        (readPixel s.pix idx.toNat).b s) := by
  rcases withCell_eq_next h with h | ⟨hi, h⟩
  · exact .inl h
  · obtain ⟨-, h⟩ := withPixel_eq_next h
    exact .inr ⟨hi, by cases h; rfl⟩

/-- What `INIT` can do. -/
theorem execInit_eq_next {s t : State} (h : execInit s = .next t) :
    (s.initd = true ∧ t = raiseFault .reinit s) ∨
    (s.initd = false ∧ s.pins.chanAvail = false ∧ t = raiseFault .noChan s) ∨
    (s.initd = false ∧ s.pins.chanAvail = true ∧
      t = { s with initd := true, mode := .gap, gapCnt := s.cfg.latchTicks }) := by
  unfold execInit at h
  split at h
  · next hi => exact .inl ⟨hi, by cases h; rfl⟩
  · next hi =>
    split at h
    · next ha => exact .inr (.inl ⟨by simpa using hi, by simpa using ha, by cases h; rfl⟩)
    · next ha => exact .inr (.inr ⟨by simpa using hi, by simpa using ha, by cases h; rfl⟩)

/-- What `WRITE` can do. -/
theorem execWrite_eq_next {s t : State} (h : execWrite s = .next t) :
    (s.initd = false ∧ t = raiseFault .notInit s) ∨
    (s.initd = true ∧ t = { s with mode := .frame, cell := 0, chan := .green }) := by
  unfold execWrite at h
  split at h
  · next hi => exact .inl ⟨by simpa using hi, by cases h; rfl⟩
  · next hi => exact .inr ⟨by simpa using hi, by cases h; rfl⟩

/-- What `STAT` does. -/
theorem execStat_eq_next {s t : State} (h : execStat s = .next t) :
    t = respond okCode 0 (BitVec.ofNat 8 (s.cfg.n - 1)) (status s) s := by
  cases h; rfl

/-! ### The arms -/

/-- What the `CLR` arm can do. -/
theorem clrArm_eq_next {s t : State} (h : clrArm s = .next t) :
    s.clrIdx < s.cfg.n ∧
    ((s.clrIdx = s.cfg.n - 1 ∧
        t = respondOk { s with pix := writePixel s.pix s.clrIdx .black, mode := .idle }) ∨
     (s.clrIdx ≠ s.cfg.n - 1 ∧
        t = { s with pix := writePixel s.pix s.clrIdx .black, clrIdx := s.clrIdx + 1 })) := by
  obtain ⟨u, hu, h⟩ := onNext_eq_next h
  obtain ⟨h0, rfl⟩ := storePixel_eq_next hu
  refine ⟨h0, ?_⟩
  split at h
  · next h1 => exact .inl ⟨h1, by cases h; rfl⟩
  · next h1 => exact .inr ⟨h1, by cases h; rfl⟩

/-- What `converter_push` does: it never stops. -/
theorem converterPush_eq (s : State) :
    converterPush s = .next (if s.cell < s.cfg.n ∧ s.q.length < s.cfg.qDepth then
      converterNext { s with q := s.q ++ [(readPixel s.pix s.cell).channel s.chan] } else s) := by
  unfold converterPush
  split
  · next h => rw [withPixel_of_lt h.1]
  · rfl

/-- What the `FRAME` arm does: it never stops. -/
theorem frameArm_eq (s : State) :
    ∃ t, converterPush (serializerLoad (serializerAdvance s)) = .next t ∧
      frameArm s = .next (frameEndCheck t) := by
  refine ⟨_, converterPush_eq _, ?_⟩
  simp [frameArm, converterPush_eq]

/-- What `execute` can do. -/
theorem execute_eq (w : Word) (s : State) :
    (∃ i, decode w = .ok i ∧ execute w s = exec i s) ∨
    (∃ e, decode w = .error e ∧ execute w s = .next (raiseFault .illegal s)) := by
  unfold execute
  split
  · next i h => exact .inl ⟨i, h, rfl⟩
  · next e h => exact .inr ⟨e, h, rfl⟩

/-- A step answers a next state only with a valid configuration, from one block edge and what follows it. -/
theorem step_eq_next {s u : State} (h : step s = .next u) :
    s.cfg.Valid ∧ ∃ t, clockEdge s = .next t ∧ u = afterEdge (accepts s) t := by
  unfold step machineEdge at h
  split at h
  · next hv =>
    obtain ⟨t, ht, h⟩ := onNext_eq_next h
    exact ⟨hv, t, ht, by cases h; rfl⟩
  · cases h

theorem step_of_clockEdge {s t : State} (hv : s.cfg.Valid) (h : clockEdge s = .next t) :
    step s = .next (afterEdge (accepts s) t) := by
  unfold step machineEdge
  rw [if_pos hv, h, onNext_next]

end Sys2Proof.Machine
end

