-- ==== Sys2Proof/Laws/PerInstr.lean ====
section
/-! SUPPORT. Statements made per instruction, about the instruction as syntax. -/

namespace Sys2Proof

/-- A row with an opcode and a mask of whole bytes selects an assembled word by its bytes. -/
theorem selects_assembleWord (name : String) (p mo mi mr mg mb op i r g b : Byte) :
    (OpRow.mk name (assembleWord p 0#8 0#8 0#8 0#8) (assembleWord mo mi mr mg mb)).selects
        (assembleWord op i r g b) =
      decide (op &&& mo = p ∧ i &&& mi = 0#8 ∧ r &&& mr = 0#8 ∧ g &&& mg = 0#8 ∧ b &&& mb = 0#8) := by
  rw [Bool.eq_iff_iff, decide_eq_true_iff]
  simp only [OpRow.selects, beq_iff_eq, assembleWord_and, assembleWord_inj]

/-- The rows of the opcode map, byte by byte. -/
theorem opcodeMap_bytes : opcodeMap = [
    ⟨"INIT", assembleWord 0x01 0 0 0 0, assembleWord 0xFF 0xFF 0xFF 0xFF 0xFF⟩,
    ⟨"WRITE", assembleWord 0x02 0 0 0 0, assembleWord 0xFF 0xFF 0xFF 0xFF 0xFF⟩,
    ⟨"SETPIX", assembleWord 0x03 0 0 0 0, assembleWord 0xFF 0 0 0 0⟩,
    ⟨"CLEAR", assembleWord 0x04 0 0 0 0, assembleWord 0xFF 0xFF 0xFF 0xFF 0xFF⟩,
    ⟨"GET", assembleWord 0x05 0 0 0 0, assembleWord 0xFF 0 0xFF 0xFF 0xFF⟩,
    ⟨"STAT", assembleWord 0x06 0 0 0 0, assembleWord 0xFF 0xFF 0xFF 0xFF 0xFF⟩] := by decide

namespace Laws.OwnRow

/-- The word of a command selects its own row of the opcode map and no other (30_encoding.md R93). -/
abbrev Statement (i : Instr) : Prop :=
  ∀ row ∈ opcodeMap, row.selects (encode i) = true ↔ row.mnemonic = i.mnemonic

theorem init : Statement .init := by decide

theorem write : Statement .write := by decide

theorem setPix (idx r g b : Byte) : Statement (.setPix idx r g b) := by
  rw [Statement, opcodeMap_bytes]
  simp [encode, selects_assembleWord, Instr.mnemonic]

theorem clear : Statement .clear := by decide

theorem get (idx : Byte) : Statement (.get idx) := by
  rw [Statement, opcodeMap_bytes]
  simp [encode, selects_assembleWord, Instr.mnemonic]

theorem stat : Statement .stat := by decide

end Laws.OwnRow

end Sys2Proof
end

