-- ==== Sys2Proof/Laws/Run.lean ====
section
/-! SUPPORT. What an edge of the block never touches, what the host does after it, when the observer goes on,
and runs of a machine whose host has nothing more to do. -/

namespace Sys2Proof.Machine

theorem SameAround.rfl (s : State) : SameAround s s := ⟨.refl _, .refl _, .refl _, .refl _, .refl _, .refl _, .refl _⟩

theorem SameAround.trans {s t u : State} (h : SameAround s t) (k : SameAround t u) : SameAround s u := by
  obtain ⟨h1, h2, h3, h4, h5, h6, h7⟩ := h
  obtain ⟨k1, k2, k3, k4, k5, k6, k7⟩ := k
  exact ⟨k1.trans h1, k2.trans h2, k3.trans h3, k4.trans h4, k5.trans h5, k6.trans h6, k7.trans h7⟩

theorem raiseFault_around (f : CmdFault) (s : State) : SameAround s (raiseFault f s) := by
  cases f <;> exact .rfl s

/-- No command body touches what is around the block. -/
theorem exec_around {i : Instr} {s t : State} (h : exec i s = .next t) : SameAround s t := by
  cases i with
  | init =>
    rcases execInit_eq_next h with ⟨-, rfl⟩ | ⟨-, -, rfl⟩ | ⟨-, -, rfl⟩
    exacts [raiseFault_around _ s, raiseFault_around _ s, .rfl s]
  | write =>
    rcases execWrite_eq_next h with ⟨-, rfl⟩ | ⟨-, rfl⟩
    exacts [raiseFault_around _ s, .rfl s]
  | setPix idx r g b =>
    rcases execSetPix_eq_next h with ⟨-, rfl⟩ | ⟨-, rfl⟩
    exacts [raiseFault_around _ s, .rfl s]
  | clear =>
    obtain ⟨-, ⟨-, rfl⟩ | ⟨-, rfl⟩⟩ := execClear_eq_next h
    exacts [.rfl s, .rfl s]
  | get idx =>
    rcases execGet_eq_next h with ⟨-, rfl⟩ | ⟨-, rfl⟩
    exacts [raiseFault_around _ s, .rfl s]
  | stat => cases execStat_eq_next h; exact .rfl s

theorem serializerAdvance_around (s : State) : SameAround s (serializerAdvance s) := by
  unfold serializerAdvance
  split_ifs <;> exact .rfl s

theorem serializerLoad_around (s : State) : SameAround s (serializerLoad s) := by
  unfold serializerLoad
  split <;> exact .rfl s

theorem converterNext_around (s : State) : SameAround s (converterNext s) := by
  unfold converterNext
  split <;> exact .rfl s

theorem converterPush_around {s t : State} (h : converterPush s = .next t) : SameAround s t := by
  rw [converterPush_eq] at h
  cases h
  split_ifs
  · exact converterNext_around { s with q := _ }
  · exact .rfl s

theorem frameEndCheck_around (s : State) : SameAround s (frameEndCheck s) := by
  unfold frameEndCheck
  split_ifs <;> exact .rfl s

theorem gapArm_around (s : State) : SameAround s (gapArm s) := by
  unfold gapArm
  split_ifs <;> exact .rfl s

theorem modeArm_around {s t : State} (h : modeArm s = .next t) : SameAround s t := by
  unfold modeArm at h
  split at h
  · unfold idleArm at h
    split at h
    · rcases execute_eq s.pins.cmdData s with ⟨i, -, he⟩ | ⟨e, -, he⟩
      · exact exec_around (he ▸ h)
      · rw [he] at h
        cases h
        exact raiseFault_around _ s
    · cases h
      exact .rfl s
  · obtain ⟨-, ⟨-, rfl⟩ | ⟨-, rfl⟩⟩ := clrArm_eq_next h
    exacts [.rfl s, .rfl s]
  · obtain ⟨u, hu, hf⟩ := frameArm_eq s
    rw [hf] at h
    cases h
    exact ((serializerAdvance_around s).trans (serializerLoad_around _)).trans
      ((converterPush_around hu).trans (frameEndCheck_around u))
  · cases h
    exact gapArm_around s

/-- An edge of the block touches neither the parameters, the ports, the host nor the chain. -/
theorem clockEdge_around {s t : State} (h : clockEdge s = .next t) : SameAround s t := by
  unfold clockEdge at h
  split at h
  · cases h
    exact .rfl s
  · exact (SameAround.rfl s).trans (modeArm_around (s := clearResponse s) h)

/-! ### What the host does after an edge -/

/-- Edges with `rst = 1` before edge 0 are not numbered. -/
theorem nextEdge_leading {s : State} (he : s.edge = 0) (hr : s.pins.rst = true) : nextEdge s = 0 :=
  if_pos ⟨he, hr⟩

/-- Every other edge moves the number on by one. -/
theorem nextEdge_numbered {s : State} (h : s.edge = 0 → s.pins.rst = false) : nextEdge s = s.edge + 1 :=
  if_neg fun ⟨he, hr⟩ => by rw [h he] at hr; cases hr

/-- Where the number stays, no directive is due; where it moves, one that names the new number is. -/
theorem rstDue_eq (s : State) : rstDue s = (!(s.edge = 0 && s.pins.rst) && s.rstAt.contains (s.edge + 1)) := by
  unfold rstDue nextEdge
  by_cases h : s.edge = 0 ∧ s.pins.rst = true
  · simp [h]
  · rw [if_neg h]
    cases hr : s.pins.rst <;> simp_all

/-- It drives the coming edge with the offer it holds. -/
theorem hostAdvance_held {s : State} (hh : s.hold = true) (hv : s.pins.cmdValid = true) :
    hostAdvance false s = driveEdge (nextEdge s) (rstDue s) ⟨{ s.pins with rst := false }, true, s.script⟩ s := by
  simp [hostAdvance, hh, hv]

/-- It takes its next item when it holds no offer, or the edge accepted it. -/
theorem hostAdvance_takes {accepted : Bool} {s : State} (h : s.hold = false ∨ accepted = true) :
    hostAdvance accepted s =
      driveEdge (nextEdge s) (rstDue s)
        (driveNext (cmdReady s) (s.mode = .idle) s.pins.chanAvail s.script) s := by
  rcases h with h | h <;> simp [hostAdvance, h]

theorem driveNext_offer_ready (idle avail : Bool) (w : Word) (rest : List HostItem) :
    driveNext true idle avail (.offer w :: rest) = ⟨⟨false, true, w, avail⟩, true, rest⟩ := rfl

theorem driveNext_offer_waits (idle avail : Bool) (w : Word) (rest : List HostItem) :
    driveNext false idle avail (.offer w :: rest) = ⟨.quiet avail, false, .offer w :: rest⟩ := rfl

/-! ### Blacking the store with `SETPIX` -/

/-- One `SETPIX i, 0, 0, 0` of `setBlack`, at a cell of the store: it writes black and answers `OK`. -/
theorem exec_setPix_black {s : State} {i : Nat} (hi : i < s.cfg.n) (hn : s.cfg.n ≤ 256) :
    exec (.setPix (BitVec.ofNat 8 i) 0 0 0) s =
      .next (respondOk { s with pix := writePixel s.pix i Pixel.black }) := by
  have hx : (BitVec.ofNat 8 i).toNat = i := by rw [BitVec.toNat_ofNat]; omega
  simp [exec, execSetPix, withCell, indexIllegal, hx, hi, storePixel, pixelOperand, onNext, Pixel.black]

/-! ### When the observer goes on -/

theorem symbolExact_iff (cfg : Config) (c : Chain) :
    symbolExact cfg c = true ↔ c.pulse + c.low = cfg.symTicks ∨
      (cfg.symTicks < c.pulse + c.low ∧ 24 * cfg.n ∣ c.bits.length) := by
  simp [symbolExact, Nat.dvd_iff_mod_eq_zero]

/-! ### A host with nothing more to do -/

/-- No reset on the port, none to come, nothing left in the script. -/
abbrev QuietHost (s : State) : Prop := s.pins.rst = false ∧ s.script = [] ∧ s.rstAt = []

theorem quietHost_step {s t : State} (h : QuietHost s) (ht : step s = .next t) : QuietHost t := by
  obtain ⟨-, u, hu, rfl⟩ := step_eq_next ht
  obtain ⟨-, -, -, hs, hr, -, -⟩ := clockEdge_around hu
  obtain ⟨-, h2, h3⟩ := h
  rw [h2] at hs
  rw [h3] at hr
  refine ⟨?_, ?_, hr⟩
  · simp only [afterEdge, hostAdvance, driveEdge, observePeriod, hr, hs, driveNext]
    split <;> simp [Pins.quiet, rstDue_eq]
  · simp only [afterEdge, hostAdvance, driveEdge, observePeriod, hs, driveNext]
    split <;> rfl

/-- Such a machine is never reset. -/
theorem noReset_of_quiet {s : State} (h : QuietHost s) (k : Nat) : NoReset k s := by
  intro j _ u hu
  induction j generalizing s with
  | zero => cases hu; exact h.1
  | succ j ih =>
    obtain ⟨t, ht, hu⟩ := onNext_eq_next hu
    exact ih (quietHost_step h ht) (by omega) hu

end Sys2Proof.Machine
end

