-- ==== Sys2Proof/Tests/Slice0.lean ====
section
/-! SUPPORT. Tests: every expected value is written out in 95_test_vectors.md (V…, P…) or computed by hand
from the rule named. And a witness for the hypotheses of every obligation. -/

namespace Sys2Proof.Tests

open Sys2Proof.Machine

/-! ### Configurations (R9) -/

theorem test_default_valid : Config.default.Valid := by decide
theorem test_largest_store_valid : Config.Valid { Config.default with n := 256 } := by decide
theorem test_no_cells_refused : ¬ Config.Valid { Config.default with n := 0 } := by decide
theorem test_too_many_cells_refused : ¬ Config.Valid { Config.default with n := 257 } := by decide
theorem test_window_sum_refused : ¬ Config.Valid { Config.default with longTicks := 6 } := by decide
theorem test_no_short_refused :
    ¬ Config.Valid { Config.default with shortTicks := 0, longTicks := 10 } := by decide
theorem test_short_not_below_long_refused :
    ¬ Config.Valid { Config.default with shortTicks := 5, longTicks := 5 } := by decide
theorem test_latch_below_minimum_refused :
    ¬ Config.Valid { Config.default with latchTicks := 399 } := by decide
theorem test_no_queue_refused : ¬ Config.Valid { Config.default with qDepth := 0 } := by decide

/-- `LATCH_TICKS > SYM_TICKS` follows from the other constraints; only a window of no ticks breaks it, and
that breaks others too. -/
theorem test_latch_not_above_window_refused :
    ¬ Config.Valid { Config.default with symTicks := 0, shortTicks := 0, longTicks := 0, latchTicks := 0 } := by
  decide

/-- R8: the default clock is 8 MHz. -/
theorem test_default_clock : Config.default.fClkHz = 8000000 := by decide

/-- R8: 62.5 ns a tick with 20 ticks a symbol (V29 (b)). -/
theorem test_tick_of_twenty : Config.tickNs { Config.default with symTicks := 20 } = 62.5 := by
  norm_num [Config.tickNs, tSymNs]

/-! ### Program lines (R100, R101; V1) -/

theorem test_setpix_index_256_refused : (Asm.setPix 256 0 0 0).wf = false := by decide
theorem test_setpix_red_256_refused : (Asm.setPix 0 256 0 0).wf = false := by decide
theorem test_setpix_green_256_refused : (Asm.setPix 0 0 256 0).wf = false := by decide
theorem test_setpix_blue_256_refused : (Asm.setPix 0 0 0 256).wf = false := by decide
theorem test_setpix_255_accepted : (Asm.setPix 255 255 255 255).wf = true := by decide
theorem test_get_256_refused : (Asm.get 256).wf = false := by decide
theorem test_setrgb_25_bits_refused : (Asm.setRgb 0 0x1000000).wf = false := by decide
theorem test_setrgb_index_refused : (Asm.setRgb 256 0).wf = false := by decide
theorem test_red_256_refused : (Asm.red 256).wf = false := by decide
theorem test_green_256_refused : (Asm.green 256).wf = false := by decide
theorem test_black_256_refused : (Asm.black 256).wf = false := by decide
theorem test_program_with_a_bad_line_refused : assemble [.init, .get 256] = none := by decide

/-- The word a line of text assembles to. -/
def wordOf (text : String) : Option Word := ((parseLine text.toList).bind id).bind asmWord

theorem test_text_init : wordOf "INIT" = some 0x0100000000 := by decide
theorem test_text_setpix : wordOf "SETPIX 24, 0x12, 0x34, 0x56 ; last cell" = some 0x0318123456 := by decide
theorem test_text_get : wordOf "GET 255" = some 0x05FF000000 := by decide
theorem test_text_setrgb : wordOf "SETRGB 12, 0x00FF00" = some 0x030C00FF00 := by decide
theorem test_text_red : wordOf "RED 20" = some 0x0314FF0000 := by decide
theorem test_text_green : wordOf "GREEN 12" = some 0x030C00FF00 := by decide
theorem test_text_black : wordOf "BLACK 7" = some 0x0307000000 := by decide
theorem test_text_setpix_256 : wordOf "SETPIX 256, 0, 0, 0" = none := by decide
theorem test_text_env : parseLine "ENV chan_avail = 0".toList = some (some (.env false)) := by decide
theorem test_text_rst_at : parseLine "RST @500".toList = some (some (.rstAt 500)) := by decide
theorem test_text_comment : parseLine "; nothing".toList = some none := by decide

/-! ### Decoding (R90 to R95; V2, V3) -/

theorem test_decode_init : decode 0x0100000000 = .ok .init := by decide
theorem test_decode_write : decode 0x0200000000 = .ok .write := by decide
theorem test_decode_setpix : decode 0x0318123456 = .ok (.setPix 24 0x12 0x34 0x56) := by decide
theorem test_decode_clear : decode 0x0400000000 = .ok .clear := by decide
theorem test_decode_get : decode 0x05FF000000 = .ok (.get 255) := by decide
theorem test_decode_stat : decode 0x0600000000 = .ok .stat := by decide
theorem test_decode_op_zero : decode 0x0000000000 = .error .unknownOp := by decide
theorem test_decode_op_seven : decode 0x0700000000 = .error .unknownOp := by decide
theorem test_decode_init_reserved : decode 0x0180000000 = .error .reservedNonzero := by decide
theorem test_decode_write_reserved : decode 0x0200010000 = .error .reservedNonzero := by decide
theorem test_decode_clear_reserved : decode 0x0400000100 = .error .reservedNonzero := by decide
theorem test_decode_get_reserved : decode 0x0503800000 = .error .reservedNonzero := by decide
theorem test_decode_stat_reserved : decode 0x0600010000 = .error .reservedNonzero := by decide
theorem test_encode_setpix : encode (.setPix 3 255 0 0) = 0x0303FF0000 := by decide
theorem test_encode_get : encode (.get 3) = 0x0503000000 := by decide
theorem test_decodeTableWord : decodeTableWord 40 0x0318123456 = some (.setPix 24 0x12 0x34 0x56) := by
  decide

/-! ### One edge (V14 to V50). `offered w` is the machine after reset with `w` on the port. -/

/-- After reset, with a word offered. -/
def offered (w : Word) : State := placeWord w State.reset

/-- Something about the state after one edge; false when there is none. -/
def afterStep (s : State) (p : State → Bool) : Bool :=
  match step s with
  | .next t => p t
  | .fault _ | .refused _ => false

/-- After reset, with cell 7 holding (1, 2, 3) (V14). -/
def cellSet (w : Word) : State := { offered w with pix := writePixel [] 7 ⟨1, 2, 3⟩ }

/-- A claimed channel, at rest (10_state.md R22). -/
def claimed (w : Word) : State := { offered w with initd := true }

/-- The response and `STATUS` in the period after one edge. -/
def answers (s : State) (r : RspWord) (st : Byte) : Bool :=
  afterStep s fun t => rspValid t && (rspData t == r) && (status t == st)

theorem test_setpix_stores : afterStep (offered 0x0307010203) (fun t =>
    decide (t.rspd = 0 ∧ readPixel t.pix 7 = ⟨1, 2, 3⟩ ∧ readPixel t.pix 6 = ⟨0, 0, 0⟩)) = true := by decide
theorem test_setpix_25_faults : answers (offered 0x0319010203) 0x01000000 0x04 = true := by decide
theorem test_get_reads : answers (cellSet 0x0507000000) 0x00010203 0x00 = true := by decide
theorem test_get_200_faults : answers (offered 0x05C8000000) 0x01000000 0x04 = true := by decide
theorem test_clear_starts : afterStep (cellSet 0x0400000000) (fun t =>
    decide (t.mode = .clr ∧ t.clrIdx = 1 ∧ t.rspv = false ∧ status t = 0x20)) = true := by decide
theorem test_clear_one_cell : answers { offered 0x0400000000 with cfg := { Config.default with n := 1 } }
    0x00000000 0x00 = true := by decide
theorem test_init_claims : afterStep (offered 0x0100000000) (fun t =>
    decide (t.mode = .gap ∧ t.gapCnt = 400 ∧ line t = .l ∧ t.rspv = false ∧ status t = 0x21)) = true := by
  decide
theorem test_init_no_channel :
    answers { offered 0x0100000000 with pins := ⟨false, true, 0x0100000000, false⟩ } 0x02000000 0x02 = true := by
  decide
theorem test_write_starts : afterStep (claimed 0x0200000000) (fun t =>
    decide (t.mode = .frame ∧ t.cell = 0 ∧ t.q = [] ∧ line t = .l ∧ status t = 0x21)) = true := by decide
theorem test_write_before_init : answers (offered 0x0200000000) 0x04000000 0x10 = true := by decide
theorem test_init_twice : answers (claimed 0x0100000000) 0x05000000 0x11 = true := by decide
theorem test_stat_after_reset : answers (offered 0x0600000000) 0x00001800 0x00 = true := by decide
theorem test_stat_largest :
    answers { offered 0x0600000000 with cfg := { Config.default with n := 256 } } 0x0000FF00 0x00 = true := by
  decide
theorem test_illegal_word : answers (offered 0x05C8000001) 0x03000000 0x08 = true := by decide
theorem test_reset_wins : afterStep
    { cellSet 0x0304090909 with pins := ⟨true, true, 0x0304090909, true⟩ } (fun t =>
    decide (t.rspv = false ∧ t.pix = [] ∧ cmdReady t = true ∧ line t = .z)) = true := by decide
theorem test_withFetchWord : afterStep (State.reset.withFetchWord 40 0x0307010203) (fun t =>
    decide (readPixel t.pix 7 = ⟨1, 2, 3⟩)) = true := by decide

/-- R263: a program that opens with `RST` has edge 0 at the first edge with `rst = 0`. -/
theorem test_leading_reset_unnumbered :
    (placeScript [.rst, .offer 0x0600000000] [] State.reset).pins.rst = true ∧
    afterStep (placeScript [.rst, .offer 0x0600000000] [] State.reset)
      (fun t => decide (t.edge = 0 ∧ t.pins.rst = false ∧ commandAt t = some .stat)) = true := by decide

/-- R101: `RST @1` is the edge after edge 0. -/
theorem test_rst_at_one : afterStep (placeScript [.offer 0x0600000000] [1] State.reset)
    (fun t => decide (t.edge = 1 ∧ t.pins.rst = true)) = true := by decide

/-- R102, V51: while `CLEAR` is in progress the reference host offers nothing and keeps its next word. -/
theorem test_host_waits_while_busy : afterStep { offered 0x0400000000 with script := [.offer 0x0600000000] }
    (fun t => decide (t.pins.cmdValid = false ∧ t.script = [.offer 0x0600000000])) = true := by decide

/-- R102: single-tick commands are accepted at consecutive edges, so the next word is on the port at once. -/
theorem test_host_offers_when_ready : afterStep
    { offered 0x0307010203 with script := [.offer 0x0600000000] }
    (fun t => decide (commandAt t = some .stat ∧ t.script = [])) = true := by decide

/-- The `WRITE` of V24 in period 403: the first byte is queued. -/
def period403 : State :=
  { claimed 0 with
    cfg := { Config.default with n := 1 }, pix := writePixel [] 0 ⟨0x12, 0x34, 0x56⟩, mode := .frame
    chan := .red, q := [0x34], pins := .quiet true, hold := false }

/-- V24, period 404. -/
theorem test_frame_load : afterStep period403 (fun t =>
    decide (t.cell = 0 ∧ t.chan = .blue ∧ t.q = [0x12] ∧ t.shifting = true ∧ t.sr = 0x34 ∧ t.nbit = 8 ∧
      t.tcnt = 0 ∧ line t = .h)) = true := by decide

/-- V24, period 413 to 414: the next symbol. -/
theorem test_frame_shift : afterStep
    { period403 with
      cell := 1, chan := .green, q := [0x12, 0x56], shifting := true, sr := 0x34, nbit := 8, tcnt := 9 } (fun t =>
    decide (t.sr = 0x68 ∧ t.nbit = 7 ∧ t.tcnt = 0 ∧ line t = .h)) = true := by decide

/-- V24, period 643 to 644: the frame is over. -/
theorem test_frame_end : afterStep
    { period403 with
      cell := 1, chan := .green, q := [], shifting := true, sr := 0, nbit := 1, tcnt := 9 } (fun t =>
    decide (t.mode = .gap ∧ t.gapCnt = 400 ∧ t.shifting = false ∧ t.nbit = 0 ∧ line t = .l)) = true := by decide

/-- V24, period 1043 to 1044: the response. -/
theorem test_gap_end : answers { period403 with mode := .gap, gapCnt := 1, q := [] } 0x00000000 0x01 = true := by
  decide

/-! ### The chain (V32, V34) -/

/-- Bytes as bits, most significant first. -/
def bitsOf (bytes : List Byte) : List Bool :=
  bytes.flatMap fun b => (List.range 8).map fun k => b.getLsbD (7 - k)

theorem test_burst_falls_off : showBurst (bitsOf [2, 1, 3, 5, 4, 6]) [⟨9, 9, 9⟩] = [⟨1, 2, 3⟩] := by decide
theorem test_burst_short : showBurst (bitsOf [2, 1, 3, 5, 4, 6]) [⟨9, 9, 9⟩, ⟨9, 9, 9⟩, ⟨7, 8, 9⟩] =
    [⟨1, 2, 3⟩, ⟨4, 5, 6⟩, ⟨7, 8, 9⟩] := by decide
theorem test_partial_group : showBurst (bitsOf [0x34, 0x12, 0x56] ++ List.replicate 6 true)
    [⟨9, 9, 9⟩, ⟨7, 8, 9⟩] = [⟨0x12, 0x34, 0x56⟩, ⟨7, 8, 9⟩] := by decide

/-- The default timing, one cell: `H3` of a zero is over, `low` periods low, `k` bits so far. -/
def afterZeros (k low : Nat) : Watch :=
  (observe { Config.default with n := 1 } .h ⟨.on, 0, low, 3, List.replicate k false, [], 0⟩).watch

/-- R211: a symbol of 12 ticks inside a frame (`H3 L9 H3`) has no meaning, one of 10 has. -/
theorem test_long_symbol_in_frame : afterZeros 7 9 = .noMeaning ∧ afterZeros 7 7 = .on := by decide

/-- R210, V33: a low of 107 after a whole frame of 24 symbols merges the frames. -/
theorem test_merged_frames : afterZeros 24 107 = .on := by decide

/-- V24 and R70: the frame of V20. -/
theorem test_frame_bytes : (List.range 3).map (frameByte (writePixel [] 0 ⟨0x12, 0x34, 0x56⟩)) =
    [0x34, 0x12, 0x56] := by decide

/-! ### Witnesses: for every obligation with hypotheses, states and operands that meet them together, each
clause at a boundary of its range. `bench n claimed w` is a small machine at rest with `w` on the port. -/

/-- The shortest legal timing, a queue of two, two LEDs. -/
def tiny (n : Nat) : Config := ⟨n, 3, 1, 2, 120, 2, 2⟩

/-- At rest; with the channel claimed, a latch has passed. -/
def bench (n : Nat) (owned : Bool) (w : Word) : State :=
  placeWord w { State.reset with
    cfg := tiny n
    initd := owned
    chain := ⟨if owned then .on else .off, 0, if owned then 120 else 0, 0, [], [⟨9, 9, 9⟩, ⟨7, 8, 9⟩], 0⟩ }

/-- In the `CLR` arm at a cell. -/
def clearing (n i : Nat) : State := { bench n true 0 with mode := .clr, clrIdx := i }

/-- In a gap, `k` edges before its end. -/
def gapping (k : Nat) : State := { bench 1 true 0 with mode := .gap, gapCnt := k }

/-- In the frame of a black store: the converter at cell `c`, a queue, a symbol's window at tick `k` with
`nbit` bits of the byte left. -/
def sending (n c : Nat) (q : List Byte) (nbit k : Nat) : State :=
  { bench n true 0 with mode := .frame, cell := c, q := q, shifting := true, nbit := nbit, tcnt := k }

/-- In a frame before its first symbol. -/
def starting (q : List Byte) : State := { bench 1 true 0 with mode := .frame, chan := .red, q := q }

/-- Halted (60_exceptions.md R232). -/
def halted : State := { bench 1 false 0x0100000000 with fatal := true }

/-- Nothing on the port. -/
def unoffered (owned : Bool) : State := { bench 1 owned 0 with pins := .quiet true, hold := false }

/-- Reset on the port. -/
def resetting : State := { bench 2 true 0 with pins := ⟨true, true, 0x0600000000, true⟩ }

/-- `CLEAR` on the port of two cells that are not black. -/
def clearOffered : State := { bench 2 true 0x0400000000 with pix := [(0, 1), (5, 255)] }

theorem witness_EncodeOfDecode : decode 0x05FF000000 = .ok (.get 255) := by decide

theorem witness_OpcodeMapDecides :
    ∃ row ∈ opcodeMap, row.selects 0x03FFFFFFFF = true ∧ row.mnemonic = "SETPIX" := by decide

theorem witness_IllegalWordFaults :
    (bench 2 true 0xFFFFFFFFFF).cfg.Valid ∧ illegalAt (bench 2 true 0xFFFFFFFFFF) = true := by decide

theorem witness_StepRunsDecodedCommand :
    (bench 2 true 0x0301FF00FF).cfg.Valid ∧ accepts (bench 2 true 0x0301FF00FF) = true ∧
    decode (bench 2 true 0x0301FF00FF).pins.cmdData = .ok (.setPix 1 255 0 255) := by decide

theorem witness_ResetState : resetting.cfg.Valid ∧ resetting.pins.rst = true := by decide

theorem witness_IdleEdgeChangesNothing :
    (unoffered true).cfg.Valid ∧ (unoffered true).mode = .idle ∧ (unoffered true).pins.rst = false ∧
    accepts (unoffered true) = false := by decide

theorem witness_OfferHeldUntilAccepted :
    (∃ t, step (clearing 2 1) = .next t) ∧ (clearing 2 1).hold = true ∧
    (clearing 2 1).pins.cmdValid = true ∧ accepts (clearing 2 1) = false := ⟨⟨_, rfl⟩, by decide⟩

theorem witness_EdgesNumberedFromRelease :
    (resetting.edge = 0 ∧ resetting.pins.rst = true ∧ ∃ t, step resetting = .next t) ∧
    ((unoffered true).pins.rst = false ∧
      ∃ t, step { unoffered true with rstAt := [1] } = .next t ∧ t.edge ∈ [1]) :=
  ⟨⟨by decide, by decide, _, rfl⟩, by decide, _, rfl, by decide⟩

theorem witness_HostOffersWhenReady_ready :
    ∃ t, step { gapping 1 with hold := false, script := [.offer 0x0600000000] } = .next t ∧ cmdReady t = true :=
  ⟨_, rfl, by decide⟩

theorem witness_HostOffersWhenReady_busy :
    accepts { clearOffered with script := [.offer 0x0600000000] } = true ∧
    ∃ t, step { clearOffered with script := [.offer 0x0600000000] } = .next t ∧ cmdReady t = false :=
  ⟨by decide, _, rfl, by decide⟩

theorem witness_HostOffersWhenReady_nothing_left :
    accepts clearOffered = true ∧ clearOffered.script = [] ∧ ∃ t, step clearOffered = .next t :=
  ⟨by decide, by decide, _, rfl⟩

theorem witness_SetPixStoresOnePixel :
    (bench 2 true 0).pix.wf ∧ (bench 2 true 0).cfg.n ≤ (2#8).toNat ∧ (1#8).toNat < (bench 2 true 0).cfg.n := by
  decide

theorem witness_GetReadsOnePixel :
    (bench 2 true 0).cfg.n ≤ (2#8).toNat ∧ (1#8).toNat < (bench 2 true 0).cfg.n ∧
    readPixel (bench 2 true 0).pix (1#8).toNat = ⟨0, 0, 0⟩ := by decide

theorem witness_ClearStarts :
    (bench 1 true 0).pix.wf ∧ 1 ≤ (bench 1 true 0).cfg.n ∧ (bench 1 true 0).cfg.n = 1 ∧
    (bench 2 true 0).pix.wf ∧ 1 ≤ (bench 2 true 0).cfg.n ∧ (bench 2 true 0).cfg.n ≠ 1 := by decide

theorem witness_InitClaimsOrFaults :
    (bench 1 true 0).initd = true ∧
    (halted.initd = false ∧ { halted with pins := .quiet false }.pins.chanAvail = false) ∧
    ((bench 1 false 0).initd = false ∧ (bench 1 false 0).pins.chanAvail = true) := by decide

theorem witness_WriteStartsOrFaults : (bench 1 false 0).initd = false ∧ (bench 1 true 0).initd = true := by
  decide

theorem witness_StatNeverShowsBusyOrFatal :
    (bench 1 true 0x0600000000).cfg.Valid ∧ commandAt (bench 1 true 0x0600000000) = some .stat := by decide

theorem witness_SetThenGet : ∃ t,
    (bench 2 true 0x0301AABBCC).pix.wf ∧ (1#8).toNat < (bench 2 true 0x0301AABBCC).cfg.n ∧
    commandAt (bench 2 true 0x0301AABBCC) = some (.setPix 1 0xAA 0xBB 0xCC) ∧
    step (bench 2 true 0x0301AABBCC) = .next t ∧
    commandAt { t with pins := ⟨false, true, 0x0501000000, true⟩ } = some (.get 1) :=
  ⟨_, by decide, by decide, by decide, rfl, by decide⟩

theorem witness_CanonicalStoreExtensional :
    Memory.wf [(0, 1#8), (2, 255#8)] ∧
    ∀ a, readByte [(0, 1#8), (2, 255#8)] a = readByte [(0, 1#8), (2, 255#8)] a :=
  ⟨by decide, fun _ => rfl⟩

theorem witness_ClearIsBlackEverywhere :
    clearOffered.Inv ∧ commandAt clearOffered = some .clear ∧ NoReset 2 clearOffered ∧
    clearOffered.cfg.n = 2 := ⟨by decide, by decide, noReset_of_quiet (by decide) _, by decide⟩

theorem witness_ClrEdge :
    ((clearing 2 1).Inv ∧ (clearing 2 1).mode = .clr ∧ (clearing 2 1).pins.rst = false ∧
      (clearing 2 1).clrIdx = (clearing 2 1).cfg.n - 1) ∧
    ((clearing 3 1).Inv ∧ (clearing 3 1).mode = .clr ∧ (clearing 3 1).pins.rst = false ∧
      (clearing 3 1).clrIdx ≠ (clearing 3 1).cfg.n - 1) := ⟨by decide, by decide⟩

theorem witness_SerializerEdge_window :
    (sending 1 1 [] 8 1).Inv ∧ (sending 1 1 [] 8 1).mode = .frame ∧ (sending 1 1 [] 8 1).pins.rst = false ∧
    (sending 1 1 [] 8 1).shifting = true ∧ (sending 1 1 [] 8 1).tcnt < (sending 1 1 [] 8 1).cfg.symTicks - 1 := by
  decide

theorem witness_SerializerEdge_shift :
    (sending 1 1 [] 2 2).Inv ∧ (sending 1 1 [] 2 2).mode = .frame ∧ (sending 1 1 [] 2 2).pins.rst = false ∧
    SymbolEnds (sending 1 1 [] 2 2) ∧ 1 < (sending 1 1 [] 2 2).nbit :=
  ⟨by decide, by decide⟩

theorem witness_SerializerEdge_load :
    ((sending 1 1 [0] 1 2).Inv ∧ (sending 1 1 [0] 1 2).mode = .frame ∧ (sending 1 1 [0] 1 2).pins.rst = false ∧
      Loads (sending 1 1 [0] 1 2)) ∧
    ((starting [0]).Inv ∧ (starting [0]).mode = .frame ∧ (starting [0]).pins.rst = false ∧ Loads (starting [0])) :=
  ⟨⟨by decide, by decide⟩, by decide, by decide⟩

theorem witness_SerializerEdge_end :
    (sending 1 1 [] 1 2).Inv ∧ (sending 1 1 [] 1 2).mode = .frame ∧ (sending 1 1 [] 1 2).pins.rst = false ∧
    FrameEnds (sending 1 1 [] 1 2) := ⟨by decide, by decide⟩

theorem witness_SerializerEdge_starved :
    (sending 2 1 [] 1 2).Inv ∧ (sending 2 1 [] 1 2).mode = .frame ∧ (sending 2 1 [] 1 2).pins.rst = false ∧
    SymbolEnds (sending 2 1 [] 1 2) ∧ (sending 2 1 [] 1 2).nbit = 1 ∧ (sending 2 1 [] 1 2).q = [] ∧
    (sending 2 1 [] 1 2).cell < (sending 2 1 [] 1 2).cfg.n := ⟨by decide, by decide⟩

theorem witness_SerializerEdge_first :
    ((starting []).Inv ∧ (starting []).mode = .frame ∧ (starting []).pins.rst = false ∧
      (starting []).shifting = false ∧ (starting []).q = [] ∧ (starting []).cell < (starting []).cfg.n) ∧
    ({ starting [] with cell := 1, chan := .green }.Inv ∧
      { starting [] with cell := 1, chan := .green }.cell = (starting []).cfg.n) :=
  ⟨⟨by decide, by decide⟩, by decide, by decide⟩

theorem witness_ConverterEdge :
    ((sending 2 1 [0] 8 0).Inv ∧ (sending 2 1 [0] 8 0).mode = .frame ∧ (sending 2 1 [0] 8 0).pins.rst = false ∧
      ¬ Loads (sending 2 1 [0] 8 0) ∧ (sending 2 1 [0] 8 0).cell < (sending 2 1 [0] 8 0).cfg.n ∧
      [0#8].length < (sending 2 1 [0] 8 0).cfg.qDepth ∧ ∃ t, step (sending 2 1 [0] 8 0) = .next t) :=
  ⟨by decide, by decide, by decide, by decide, by decide, by decide, _, rfl⟩

theorem witness_ConverterEdge_full :
    (sending 2 1 [0, 0] 8 0).Inv ∧ (sending 2 1 [0, 0] 8 0).mode = .frame ∧
    (sending 2 1 [0, 0] 8 0).pins.rst = false ∧ ¬ Loads (sending 2 1 [0, 0] 8 0) ∧
    ¬ [0#8, 0#8].length < (sending 2 1 [0, 0] 8 0).cfg.qDepth ∧ ∃ t, step (sending 2 1 [0, 0] 8 0) = .next t :=
  ⟨by decide, by decide, by decide, by decide, by decide, _, rfl⟩

theorem witness_ConverterEdge_load :
    Loads (sending 2 1 [0, 0] 1 2) ∧ (sending 2 1 [0, 0] 1 2).Inv ∧
    ∃ t, step (sending 2 1 [0, 0] 1 2) = .next t := ⟨by decide, by decide, _, rfl⟩

theorem witness_SymbolTiming :
    (sending 1 1 [] 1 0).Inv ∧ (sending 1 1 [] 1 0).mode = .frame ∧ (sending 1 1 [] 1 0).shifting = true ∧
    (sending 1 1 [] 1 0).tcnt = 0 ∧ NoReset 3 (sending 1 1 [] 1 0) :=
  ⟨by decide, by decide, by decide, by decide, noReset_of_quiet (by decide) 3⟩

theorem witness_GapHoldsLineLow :
    (gapping 120).Inv ∧ (gapping 120).mode = .gap ∧ NoReset 120 (gapping 120) ∧
    (gapping 1).Inv ∧ NoReset 1 (gapping 1) :=
  ⟨by decide, by decide, noReset_of_quiet (by decide) _, by decide, noReset_of_quiet (by decide) _⟩

theorem witness_StepKeepsInvariant : (sending 1 1 [] 1 2).Inv ∧ ∃ t, step (sending 1 1 [] 1 2) = .next t :=
  ⟨by decide, _, rfl⟩

theorem witness_StepNeverStops : (clearing 2 1).Inv := by decide

/-- The frame of `sending 1 1 [] 1 2`: the last tick of its last symbol. -/
theorem witness_FrameContentKept :
    (sending 1 1 [] 1 2).Inv ∧ SendsFrame (sending 1 1 [] 1 2) ∧ QueueFed (sending 1 1 [] 1 2) ∧
    ∃ t, step (sending 1 1 [] 1 2) = .next t := ⟨by decide, by decide, by decide, _, rfl⟩

/-- The same with what the chain has seen of it: 24 zeros, the last one's low for two periods. -/
def lastTick : State :=
  { sending 1 1 [] 1 2 with
    chain := ⟨.on, 0, 2, 1, List.replicate 24 false, [⟨9, 9, 9⟩, ⟨7, 8, 9⟩], 0⟩ }

theorem witness_ChainKeepsPace :
    (lastTick.Inv ∧ SendsFrame lastTick ∧ QueueFed lastTick) ∧ ChainRests lastTick ∧ ChainDecodes lastTick ∧
    ∃ t, step lastTick = .next t := ⟨⟨by decide, by decide⟩, by decide, by decide, _, rfl⟩

theorem witness_ModeTransitions :
    (lastTick.Inv ∧ SendsFrame lastTick) ∧ nextMode lastTick = .gap ∧ ∃ t, step lastTick = .next t :=
  ⟨⟨by decide, by decide⟩, by decide, _, rfl⟩

theorem witness_FlagsSetAndKept :
    (resetting.pins.rst = true ∧ ∃ t, step resetting = .next t) ∧
    (halted.pins.rst = false ∧ ∃ t, step halted = .next t) :=
  ⟨⟨by decide, _, rfl⟩, by decide, _, rfl⟩

theorem witness_StoreWriters : ∃ t,
    (bench 2 true 0x0301AABBCC).pix.wf ∧ step (bench 2 true 0x0301AABBCC) = .next t ∧
    readByte t.pix 5 ≠ readByte (bench 2 true 0x0301AABBCC).pix 5 := ⟨_, by decide, rfl, by decide⟩

theorem witness_OneResponsePerCommand :
    (resetting.Inv ∧ resetting.pins.rst = true ∧ ∃ t, step resetting = .next t) ∧
    ((gapping 1).Inv ∧ (gapping 1).pins.rst = false ∧ ∃ t, step (gapping 1) = .next t) :=
  ⟨⟨by decide, by decide, _, rfl⟩, by decide, by decide, _, rfl⟩

theorem witness_ResponseCodes : ∃ t, step (bench 1 false 0x0200000000) = .next t ∧ t.rspv = true ∧
    t.rspd.extractLsb' 24 8 ≠ 0#8 := ⟨_, rfl, by decide, by decide⟩

theorem witness_HaltedIsStuck : halted.Inv ∧ halted.fatal = true ∧ NoReset 1000 halted :=
  ⟨by decide, by decide, noReset_of_quiet (by decide) _⟩

theorem witness_OperatingModes :
    (halted.Inv ∧ operatingMode halted = .halted ∧ ∃ t, step halted = .next t) ∧
    (lastTick.Inv ∧ operatingMode lastTick = .ready ∧ ∃ t, step lastTick = .next t) ∧
    ((bench 1 false 0x0100000000).Inv ∧ commandAt (bench 1 false 0x0100000000) = some .init ∧
      ∃ t, step (bench 1 false 0x0100000000) = .next t) :=
  ⟨⟨by decide, by decide, _, rfl⟩, ⟨by decide, by decide, _, rfl⟩, by decide, by decide, _, rfl⟩

theorem witness_LineHighOnlyInFrame :
    (sending 1 1 [] 8 0).Inv ∧ line (sending 1 1 [] 8 0) = .h := by decide

theorem witness_BusyIgnoresPorts :
    (clearing 2 1).mode ≠ .idle ∧ (Pins.quiet false).rst = (clearing 2 1).pins.rst ∧
    ∃ t, clockEdge (clearing 2 1) = .next t := ⟨by decide, by decide, _, rfl⟩

theorem witness_ParametersFixed : ∃ t, step halted = .next t := ⟨_, rfl⟩

theorem witness_ClearRunsToBlack :
    (bench 3 true 0x0400000000).Inv ∧ commandAt (bench 3 true 0x0400000000) = some .clear ∧
    NoReset 3 (bench 3 true 0x0400000000) ∧ (1 ≤ 2 ∧ 2 < (bench 3 true 0x0400000000).cfg.n) :=
  ⟨by decide, by decide, noReset_of_quiet (by decide) _, by decide⟩

theorem witness_InitRunsToResponse :
    (bench 1 false 0x0100000000).Inv ∧ commandAt (bench 1 false 0x0100000000) = some .init ∧
    (bench 1 false 0x0100000000).initd = false ∧ (bench 1 false 0x0100000000).pins.chanAvail = true ∧
    NoReset 121 (bench 1 false 0x0100000000) :=
  ⟨by decide, by decide, by decide, by decide, noReset_of_quiet (by decide) _⟩

theorem witness_WriteWaveform :
    (bench 1 true 0x0200000000).Inv ∧ commandAt (bench 1 true 0x0200000000) = some .write ∧
    (bench 1 true 0x0200000000).initd = true ∧
    NoReset (writeTicks (tiny 1) + 1) (bench 1 true 0x0200000000) :=
  ⟨by decide, by decide, by decide, noReset_of_quiet (by decide) _⟩

theorem witness_WriteResponds :
    (bench 2 true 0x0200000000).Inv ∧ commandAt (bench 2 true 0x0200000000) = some .write ∧
    (bench 2 true 0x0200000000).initd = true ∧
    NoReset (writeTicks (tiny 2) + 1) (bench 2 true 0x0200000000) :=
  ⟨by decide, by decide, by decide, noReset_of_quiet (by decide) _⟩

theorem witness_QueueDepthUnseen :
    (bench 1 true 0x0200000000).Inv ∧ commandAt (bench 1 true 0x0200000000) = some .write ∧
    (bench 1 true 0x0200000000).initd = true ∧ 1 ≤ 1 ∧
    NoReset (writeTicks (tiny 1) + 1) (bench 1 true 0x0200000000) ∧
    NoReset (writeTicks (tiny 1) + 1) { bench 1 true 0x0200000000 with cfg := { tiny 1 with qDepth := 1 } } :=
  ⟨by decide, by decide, by decide, by decide, noReset_of_quiet (by decide) _,
    noReset_of_quiet (by decide) _⟩

theorem witness_TicksRefineTransactions :
    (bench 2 true 0x0400000000).Inv ∧ accepts (bench 2 true 0x0400000000) = true ∧
    (transact 0x0400000000 (bench 2 true 0x0400000000)).edges = 1 ∧ NoReset 2 (bench 2 true 0x0400000000) :=
  ⟨by decide, by decide, by decide, noReset_of_quiet (by decide) _⟩

theorem witness_TransactionWire :
    (bench 1 false 0x0100000000).Inv ∧ accepts (bench 1 false 0x0100000000) = true ∧
    (transact 0x0100000000 (bench 1 false 0x0100000000)).edges = 120 ∧
    NoReset 121 (bench 1 false 0x0100000000) :=
  ⟨by decide, by decide, by decide, noReset_of_quiet (by decide) _⟩

theorem witness_TicksRefineTransactions_write :
    (bench 1 true 0x0200000000).Inv ∧ accepts (bench 1 true 0x0200000000) = true ∧
    (transact 0x0200000000 (bench 1 true 0x0200000000)).edges = writeTicks (tiny 1) ∧
    NoReset (writeTicks (tiny 1) + 1) (bench 1 true 0x0200000000) :=
  ⟨by decide, by decide, by decide, noReset_of_quiet (by decide) _⟩

/-- A row that ends at its accepting edge: an illegal word. -/
theorem witness_TicksRefineTransactions_fault :
    (bench 2 true 0x0700000000).Inv ∧ accepts (bench 2 true 0x0700000000) = true ∧
    (transact 0x0700000000 (bench 2 true 0x0700000000)).edges = 0 ∧ NoReset 1 (bench 2 true 0x0700000000) :=
  ⟨by decide, by decide, by decide, noReset_of_quiet (by decide) _⟩

theorem witness_TransactionWire_write :
    (bench 1 true 0x0200000000).Inv ∧ accepts (bench 1 true 0x0200000000) = true ∧
    (transact 0x0200000000 (bench 1 true 0x0200000000)).edges = writeTicks (tiny 1) ∧
    NoReset (writeTicks (tiny 1) + 1) (bench 1 true 0x0200000000) :=
  ⟨by decide, by decide, by decide, noReset_of_quiet (by decide) _⟩

/-- A row without wire events, on an undriven wire. -/
theorem witness_TransactionWire_undriven :
    (bench 2 false 0x0600000000).Inv ∧ accepts (bench 2 false 0x0600000000) = true ∧
    (transact 0x0600000000 (bench 2 false 0x0600000000)).edges = 0 ∧ NoReset 1 (bench 2 false 0x0600000000) :=
  ⟨by decide, by decide, by decide, noReset_of_quiet (by decide) _⟩

theorem witness_BurstShown : 1 < [(⟨9, 9, 9⟩ : Pixel), ⟨7, 8, 9⟩].length := by decide

theorem witness_ChainDecodesSymbols :
    (tiny 1).Valid ∧ (bench 1 true 0).chain.watch = .on ∧ (bench 1 true 0).chain.high = 0 ∧
    (bench 1 true 0).chain.bits = [] := by decide

/-- A chain of `tiny 1` after `k` zeros, low for `low` periods since the last. -/
def burstOf (k low : Nat) : Chain := ⟨.on, 0, low, 1, List.replicate k false, [⟨9, 9, 9⟩, ⟨7, 8, 9⟩], 0⟩

theorem witness_OutOfToleranceHasNoMeaning :
    (tiny 1).Valid ∧
    ((burstOf 24 3).watch = .on ∧ (burstOf 24 3).high = 0 ∧ (burstOf 24 3).bits ≠ [] ∧
      (tiny 1).symTicks < (burstOf 24 3).pulse + (burstOf 24 3).low ∧ 24 * (tiny 1).n ∣ (burstOf 24 3).bits.length) ∧
    ((burstOf 7 2).watch = .on ∧ (burstOf 7 2).high = 0 ∧ (burstOf 7 2).bits ≠ [] ∧
      (burstOf 7 2).pulse + (burstOf 7 2).low = (tiny 1).symTicks) ∧
    (1 ≤ { burstOf 7 0 with high := 1 }.high ∧ { burstOf 7 0 with high := 1 }.high = (tiny 1).shortTicks) ∧
    (({ burstOf 0 0 with watch := .noMeaning } : Chain).watch ≠ .off ∧ Line.h ≠ Line.z ∧
      (observe (tiny 1) .h { burstOf 0 0 with watch := .noMeaning }).watch ≠ .on) :=
  ⟨by decide, by decide, by decide, by decide, by decide⟩

theorem witness_ShownIsTheStore :
    (bench 1 true 0x0200000000).Inv ∧ ChainInStep (bench 1 true 0x0200000000) ∧
    commandAt (bench 1 true 0x0200000000) = some .write ∧ (bench 1 true 0x0200000000).initd = true ∧
    NoReset (writeTicks (tiny 1) + 1) (bench 1 true 0x0200000000) :=
  ⟨by decide, ⟨by decide, by decide⟩, by decide, by decide, noReset_of_quiet (by decide) _⟩

end Sys2Proof.Tests
end

section
/-! Runs, rests and refusals: what every later proof about whole runs starts from. -/

namespace Sys2Proof.Machine

/-! ### Runs -/

/-- The first edge of a run. -/
theorem run_succ {s t : State} (h : step s = .next t) (k : Nat) : run (k + 1) s = run k t := by
  rw [run, h, onNext_next]

theorem NoReset.rst_eq_false {k : Nat} {s : State} (h : NoReset (k + 1) s) : s.pins.rst = false :=
  h 0 k.succ_pos s rfl

/-- What is left of a run without reset after its first edge. -/
theorem NoReset.tail {k : Nat} {s t : State} (h : NoReset (k + 1) s) (ht : step s = .next t) :
    NoReset k t := fun j hj u hu => h (j + 1) (Nat.succ_lt_succ hj) u (by rwa [run_succ ht])

/-! ### One edge -/

theorem accepts_iff (s : State) :
    accepts s = true ↔
      s.pins.rst = false ∧ s.pins.cmdValid = true ∧ s.mode = .idle ∧ s.fatal = false := by
  simp [accepts, cmdReady, and_assoc]

theorem clockEdge_of_rst_eq_false {s : State} (h : s.pins.rst = false) :
    clockEdge s = modeArm (clearResponse s) := if_neg (by simp [h])

/-- R160, R162: the edge that accepts a word executes it with the old response cleared. -/
theorem clockEdge_of_accepts {s : State} (h : accepts s = true) :
    clockEdge s = execute s.pins.cmdData (clearResponse s) := by
  obtain ⟨hr, hv, hm, hf⟩ := (accepts_iff s).1 h
  rw [clockEdge_of_rst_eq_false hr]
  simp [modeArm, idleArm, hv, hm, hf]

/-! ### Refusals -/

theorem onNext_ne_refused {o : Host.Outcome State Fault Refusal}
    {k : State → Host.Outcome State Fault Refusal} {r : Refusal} (ho : o ≠ .refused r)
    (hk : ∀ t, k t ≠ .refused r) : onNext o k ≠ .refused r := by
  cases o with
  | next t => exact hk t
  | fault f => simp
  | refused q => exact ho

theorem withPixel_ne_refused {i : Nat} {s : State} {k : Pixel → Host.Outcome State Fault Refusal}
    {r : Refusal} (hk : ∀ p, k p ≠ .refused r) : withPixel i s k ≠ .refused r := by
  unfold withPixel
  split
  · exact hk _
  · simp

theorem storePixel_ne_refused (i : Nat) (p : Pixel) (s : State) (r : Refusal) :
    storePixel i p s ≠ .refused r := by
  unfold storePixel
  split <;> simp

theorem withCell_ne_refused {idx : Byte} {s : State} {k : Nat → Host.Outcome State Fault Refusal}
    {r : Refusal} (hk : ∀ i, k i ≠ .refused r) : withCell idx s k ≠ .refused r := by
  unfold withCell
  split
  · simp
  · exact hk _

/-- Every command has its meaning. -/
theorem exec_ne_refused (i : Instr) (s : State) (r : Refusal) : exec i s ≠ .refused r := by
  cases i with
  | init => simp only [exec, execInit]; split_ifs <;> simp
  | write => simp only [exec, execWrite]; split_ifs <;> simp
  | setPix idx r g b =>
    exact withCell_ne_refused fun i => onNext_ne_refused (storePixel_ne_refused _ _ _ _) (by simp)
  | clear =>
    refine onNext_ne_refused (storePixel_ne_refused _ _ _ _) fun t => ?_
    split_ifs <;> simp
  | get idx => exact withCell_ne_refused fun i => withPixel_ne_refused (by simp)
  | stat => simp [exec, execStat]

theorem modeArm_ne_refused (s : State) (r : Refusal) : modeArm s ≠ .refused r := by
  unfold modeArm
  split
  · unfold idleArm
    split
    · rcases execute_eq s.pins.cmdData s with ⟨i, -, he⟩ | ⟨e, -, he⟩
      · exact he ▸ exec_ne_refused i s r
      · simp [he]
    · simp
  · refine onNext_ne_refused (storePixel_ne_refused _ _ _ _) fun t => ?_
    split_ifs <;> simp
  · obtain ⟨t, -, he⟩ := frameArm_eq s
    simp [he]
  · simp

/-- The block itself refuses no edge. -/
theorem clockEdge_ne_refused (s : State) (r : Refusal) : clockEdge s ≠ .refused r := by
  unfold clockEdge
  split
  · simp
  · exact modeArm_ne_refused _ r

theorem step_of_not_valid {s : State} (h : ¬ s.cfg.Valid) : step s = .refused .badConfig := if_neg h

theorem step_ne_refused {s : State} (h : s.cfg.Valid) (r : Refusal) : step s ≠ .refused r := by
  unfold step machineEdge
  rw [if_pos h]
  exact onNext_ne_refused (clockEdge_ne_refused s r) (by simp)

/-- Settles O9: the only refusal of a step is the check of the configuration. -/
theorem badConfigurationRefused : Obligations.BadConfigurationRefused := by
  refine ⟨fun s => ⟨fun ⟨r, hr⟩ hv => step_ne_refused hv r hr, fun hv => ⟨_, step_of_not_valid hv⟩⟩,
    fun s => step_of_not_valid, by decide⟩

/-- Settles O43: the parameters are around the block, and neither the chain nor the host touches them. -/
theorem parametersFixed : Obligations.ParametersFixed := by
  intro s u h
  obtain ⟨-, t, ht, rfl⟩ := step_eq_next h
  obtain ⟨hcfg, -⟩ := clockEdge_around ht
  rw [afterEdge_cfg, hcfg]

end Sys2Proof.Machine
end

section
/-! The arms of a command in progress: what one edge does to the ticks left, the store and the flags. -/

namespace Sys2Proof.Machine

/-! ### The store while a command runs -/

theorem readByte_eq_zero_of_unlisted {m : Memory} {a : Nat} (h : ∀ c ∈ m, c.1 ≠ a) : readByte m a = 0 := by
  induction m with
  | nil => rfl
  | cons c m ih =>
    rw [readByte, if_neg (h c List.mem_cons_self)]
    exact ih fun d hd => h d (List.mem_cons_of_mem _ hd)

/-- Past the last cell nothing is stored. -/
theorem readByte_past_store {s : State} (h : StoreOk s) {a : Nat} (ha : 3 * s.cfg.n ≤ a) :
    readByte s.pix a = 0 :=
  readByte_eq_zero_of_unlisted fun c hc => by have := h.2 c hc; omega

theorem readByte_writePixel_black {m : Memory} (h : m.wf) (i a : Nat) :
    readByte (writePixel m i .black) a = if 3 * i ≤ a ∧ a < 3 * (i + 1) then 0 else readByte m a := by
  rw [readByte_writePixel h]
  simp only [Pixel.black, ← ite_or]
  exact if_congr (by omega) rfl rfl

/-- The byte the store holds when the command in progress is done: `CLEAR` has cells left to blacken. -/
def byteDue (s : State) (a : Nat) : Byte :=
  if s.mode = .clr ∧ 3 * s.clrIdx ≤ a ∧ a < 3 * s.cfg.n then 0 else readByte s.pix a

theorem byteDue_of_not_clr {s : State} (h : s.mode ≠ .clr) (a : Nat) : byteDue s a = readByte s.pix a :=
  if_neg fun hc => h hc.1

/-! ### The ticks a frame has left -/

/-- Bytes of the frame the serializer has still to load: queued, or not yet pushed. -/
def bytesDue (s : State) : Nat := s.q.length + (3 * s.cfg.n - bytesPushed s)

/-- Edges from here to the end of the frame: what is left of the window on the wire, and a window for every
bit after it; before the first window, the edges that push and load the first byte. -/
def frameTicksLeft (s : State) : Nat :=
  if s.shifting then s.cfg.symTicks - s.tcnt + s.cfg.symTicks * (s.nbit - 1 + 8 * bytesDue s)
  else (if s.q = [] then 2 else 1) + s.cfg.symTicks * (8 * bytesDue s)

theorem frameTicksLeft_of_shifting {s : State} (h : s.shifting = true) :
    frameTicksLeft s = s.cfg.symTicks - s.tcnt + s.cfg.symTicks * (s.nbit - 1 + 8 * bytesDue s) := if_pos h

theorem frameTicksLeft_of_not_shifting {s : State} (h : s.shifting = false) :
    frameTicksLeft s = (if s.q = [] then 2 else 1) + s.cfg.symTicks * (8 * bytesDue s) := if_neg (by simp [h])

/-- The window on the wire is in its range (10_state.md R36 (g)). -/
abbrev WindowOk (s : State) : Prop := s.shifting = true → 1 ≤ s.nbit ∧ s.nbit ≤ 8 ∧ s.tcnt < s.cfg.symTicks

/-- The queue is empty before the first symbol and after the last byte, and not in between (R171). -/
abbrev QueueLasts (s : State) : Prop := s.q = [] → (s.shifting = true ↔ bytesPushed s = 3 * s.cfg.n)

/-- What a frame in progress keeps from edge to edge. -/
abbrev InFrame (s : State) : Prop := WindowOk s ∧ bytesPushed s ≤ 3 * s.cfg.n ∧ QueueLasts s

/-! ### The `FRAME` arm -/

/-- R163, R164: what the two serializer sub-steps of an edge do: go on in a window, shift, load, or stop. -/
theorem serializer_cases {s : State} (h : WindowOk s) :
    (s.shifting = true ∧ s.tcnt < s.cfg.symTicks - 1 ∧
      serializerLoad (serializerAdvance s) = { s with tcnt := s.tcnt + 1 }) ∨
    (SymbolEnds s ∧ 1 < s.nbit ∧
      serializerLoad (serializerAdvance s) = { s with tcnt := 0, sr := s.sr <<< 1, nbit := s.nbit - 1 }) ∨
    (∃ byte rest, (s.shifting = true → SymbolEnds s ∧ s.nbit = 1) ∧ s.q = byte :: rest ∧
      serializerLoad (serializerAdvance s) =
        { s with sr := byte, q := rest, nbit := 8, tcnt := 0, shifting := true }) ∨
    (SymbolEnds s ∧ s.nbit = 1 ∧ s.q = [] ∧
      serializerLoad (serializerAdvance s) = { s with tcnt := 0, shifting := false, nbit := 0, sr := 0 }) ∨
    (s.shifting = false ∧ s.q = [] ∧ serializerLoad (serializerAdvance s) = s) := by
  rcases hs : s.shifting with _ | _
  · have ha : serializerAdvance s = s := if_neg (by simp [hs])
    rcases hq : s.q with _ | ⟨byte, rest⟩
    · simp [ha, serializerLoad, hs, hq]
    · simp [ha, serializerLoad, hs, hq]
  · obtain ⟨h1, -, ht⟩ := h hs
    by_cases hw : s.tcnt < s.cfg.symTicks - 1
    · exact .inl ⟨rfl, hw, by simp [serializerAdvance, serializerLoad, hs, hw]⟩
    have he : s.tcnt = s.cfg.symTicks - 1 := by omega
    by_cases hb : 1 < s.nbit
    · exact .inr (.inl ⟨⟨hs, he⟩, hb, by simp [serializerAdvance, serializerLoad, hs, he, hb]⟩)
    have hn : s.nbit = 1 := by omega
    rcases hq : s.q with _ | ⟨byte, rest⟩
    · exact .inr (.inr (.inr (.inl ⟨⟨hs, he⟩, hn, rfl, by
        simp [serializerAdvance, serializerLoad, hs, he, hn, hq]⟩)))
    · exact .inr (.inr (.inl ⟨byte, rest, fun _ => ⟨⟨hs, he⟩, hn⟩, rfl, by
        simp [serializerAdvance, serializerLoad, hs, he, hn, hq]⟩))

theorem bytesPushed_eq_zero {s : State} (hc : s.cell = 0) (hg : s.chan = .green) : bytesPushed s = 0 := by
  rw [bytesPushed, hc, hg]
  rfl

theorem Chan.code_le (c : Chan) : c.code ≤ 2 := by cases c <;> decide

/-- R165: the converter goes on by one byte. -/
theorem converterNext_eq (s : State) :
    ∃ cell chan, converterNext s = { s with cell := cell, chan := chan } ∧
      3 * cell + chan.code = bytesPushed s + 1 := by
  unfold converterNext bytesPushed
  split
  · next h => exact ⟨_, _, rfl, by simp [h, Chan.code]⟩
  · next h => exact ⟨_, _, rfl, by simp [h, Chan.code]⟩
  · next h => exact ⟨_, _, rfl, by simp [h, Chan.code]; omega⟩

/-- R165: the converter moves bytes into the queue and loses none; it leaves the queue empty only at the end
of the frame. -/
theorem converterPush_spec {s : State} (h : bytesPushed s ≤ 3 * s.cfg.n) (hd : 1 ≤ s.cfg.qDepth) :
    ∃ q cell chan, converterPush s = .next { s with q := q, cell := cell, chan := chan } ∧
      bytesPushed { s with q := q, cell := cell, chan := chan } ≤ 3 * s.cfg.n ∧
      bytesDue { s with q := q, cell := cell, chan := chan } = bytesDue s ∧
      (q = [] → bytesPushed s = 3 * s.cfg.n ∧
        bytesPushed { s with q := q, cell := cell, chan := chan } = 3 * s.cfg.n) := by
  have hc := Chan.code_le s.chan
  rw [converterPush_eq]
  by_cases hp : s.cell < s.cfg.n ∧ s.q.length < s.cfg.qDepth
  · obtain ⟨cell, chan, hn, hb⟩ :=
      converterNext_eq { s with q := s.q ++ [(readPixel s.pix s.cell).channel s.chan] }
    rw [if_pos hp, hn]
    simp only [bytesPushed] at hb h
    refine ⟨_, cell, chan, rfl, ?_, ?_, by simp⟩
    · simp only [bytesPushed]
      omega
    · simp only [bytesDue, bytesPushed, List.length_append, List.length_singleton]
      omega
  · rw [if_neg hp]
    refine ⟨s.q, s.cell, s.chan, rfl, h, rfl, fun hq => ?_⟩
    have hend : ¬ s.cell < s.cfg.n := fun hlt => hp ⟨hlt, by rw [hq]; exact hd⟩
    simp only [bytesPushed] at h ⊢
    omega

theorem frameEndCheck_of_not_end {s : State} (h : s.shifting = false → s.q ≠ []) : frameEndCheck s = s :=
  if_neg fun ⟨hs, hq, _⟩ => h hs hq

/-- R165, R166: after a serializer that holds a byte, or still has one to come, the frame goes on. -/
theorem frame_goes_on {s : State} (hw : WindowOk s) (hp : bytesPushed s ≤ 3 * s.cfg.n)
    (hd : 1 ≤ s.cfg.qDepth) (hmore : s.shifting = false → bytesPushed s ≠ 3 * s.cfg.n) :
    ∃ q cell chan,
      (onNext (converterPush s) fun t => .next (frameEndCheck t)) =
        .next { s with q := q, cell := cell, chan := chan } ∧
      InFrame { s with q := q, cell := cell, chan := chan } ∧
      bytesDue { s with q := q, cell := cell, chan := chan } = bytesDue s ∧
      (s.shifting = false → q ≠ []) := by
  obtain ⟨q, cell, chan, he, hb, hdue, hempty⟩ := converterPush_spec hp hd
  have hq : s.shifting = false → q ≠ [] := fun hs h0 => hmore hs (hempty h0).1
  refine ⟨q, cell, chan, ?_, ⟨hw, hb, fun h0 => ?_⟩, hdue, hq⟩
  · rw [he, onNext_next, frameEndCheck_of_not_end hq]
  · obtain ⟨-, hend⟩ := hempty h0
    exact iff_of_true (by by_contra hs; exact hq (by simpa using hs) h0) hend

/-- R166: with the last window over and nothing to load the frame is over. -/
theorem frame_ends {s : State} (hs : s.shifting = false) (hq : s.q = [])
    (hp : bytesPushed s = 3 * s.cfg.n) :
    (onNext (converterPush s) fun t => .next (frameEndCheck t)) =
      .next { s with mode := .gap, gapCnt := s.cfg.latchTicks } := by
  have hcode := Chan.code_le s.chan
  have hcell : s.cell = s.cfg.n := by unfold bytesPushed at hp; omega
  rw [converterPush_eq, if_neg (by omega), onNext_next, frameEndCheck, if_pos ⟨hs, hq, hcell⟩]

end Sys2Proof.Machine
end

section
/-! A command in progress, from any edge to its response: every edge brings the response one tick nearer and
changes neither the flags nor what the store will hold at the end. -/

namespace Sys2Proof.Machine

/-- Edges from here to the response of the command in progress, 0 in `IDLE`. -/
def ticksLeft (s : State) : Nat :=
  match s.mode with
  | .idle => 0
  | .clr => s.cfg.n - s.clrIdx
  | .frame => frameTicksLeft s + s.cfg.latchTicks
  | .gap => s.gapCnt

/-- What every state keeps from the acceptance of a command to its response. -/
structure InCommand (s : State) : Prop where
  valid : s.cfg.Valid
  store : s.pix.wf
  clr : s.mode = .clr → s.clrIdx < s.cfg.n
  gap : s.mode = .gap → 1 ≤ s.gapCnt
  frame : s.mode = .frame → InFrame s

theorem InCommand.clearResponse {s : State} (h : InCommand s) : InCommand (clearResponse s) :=
  ⟨h.valid, h.store, h.clr, h.gap, h.frame⟩

theorem InCommand.afterEdge {s : State} (h : InCommand s) (a : Bool) : InCommand (afterEdge a s) :=
  ⟨h.valid, h.store, h.clr, h.gap, h.frame⟩

theorem InCommand.of_idle {s : State} (hv : s.cfg.Valid) (hp : s.pix.wf) (hm : s.mode = .idle) :
    InCommand s :=
  ⟨hv, hp, by simp [hm], by simp [hm], by simp [hm]⟩

theorem ticksLeft_of_idle {s : State} (hm : s.mode = .idle) : ticksLeft s = 0 := by
  simp [ticksLeft, hm]

theorem ticksLeft_of_frame {s : State} (hm : s.mode = .frame) :
    ticksLeft s = frameTicksLeft s + s.cfg.latchTicks := by
  simp [ticksLeft, hm]

/-- The ticks run out only in `IDLE`. -/
theorem InCommand.mode_of_ticksLeft_eq_zero {s : State} (h : InCommand s) (h0 : ticksLeft s = 0) :
    s.mode = .idle := by
  obtain ⟨-, -, -, -, -, -, hlatch, -⟩ := h.valid
  unfold ticksLeft at h0
  split at h0
  case h_1 hm => exact hm
  case h_2 hm => have := h.clr hm; omega
  case h_3 hm => omega
  case h_4 hm => have := h.gap hm; omega

/-- One edge nearer to the response. -/
structure Advances (s t : State) : Prop where
  inCommand : InCommand t
  ticks : ticksLeft t + 1 = ticksLeft s
  answers : t.rspv = decide (t.mode = .idle)
  rspd : t.rspd = 0
  store : ∀ a, byteDue t a = byteDue s a
  flags : SameFlags s t

section Arms

variable {s : State} (h : InCommand s) (hrv : s.rspv = false) (hrd : s.rspd = 0)

include h hrv hrd

/-- One edge of the `CLR` arm (R126). -/
theorem clrArm_advances (hm : s.mode = .clr) : ∃ t, clrArm s = .next t ∧ Advances s t := by
  have hi := h.clr hm
  have hwf := wf_writePixel h.store s.clrIdx .black
  by_cases hlast : s.clrIdx = s.cfg.n - 1
  · refine ⟨respondOk { s with pix := writePixel s.pix s.clrIdx .black, mode := .idle }, ?_, ?_⟩
    · simp only [clrArm, storePixel_of_lt hi, onNext_next, if_pos hlast]
    · refine ⟨.of_idle h.valid hwf rfl, ?_, rfl, rfl, fun a => ?_, ⟨rfl, rfl, rfl, rfl, rfl⟩⟩
      · simp only [ticksLeft, hm, respondOk_mode]
        omega
      · have hn : s.cfg.n = s.clrIdx + 1 := by omega
        simp [byteDue, hm, readByte_writePixel_black h.store, hn]
  · refine ⟨{ s with pix := writePixel s.pix s.clrIdx .black, clrIdx := s.clrIdx + 1 }, ?_, ?_⟩
    · simp only [clrArm, storePixel_of_lt hi, onNext_next, if_neg hlast]
    · refine ⟨⟨h.valid, hwf, fun _ => ?_, h.gap, h.frame⟩, ?_, by simp [hm, hrv], hrd, fun a => ?_,
        ⟨rfl, rfl, rfl, rfl, rfl⟩⟩
      · simp only
        omega
      · simp only [ticksLeft, hm]
        omega
      · simp only [byteDue, hm, true_and, readByte_writePixel_black h.store, ← ite_or]
        exact if_congr (by omega) rfl rfl

/-- One edge of the `GAP` arm (R167). -/
theorem gapArm_advances (hm : s.mode = .gap) : Advances s (gapArm s) := by
  have hg := h.gap hm
  unfold gapArm
  split
  next hlast =>
    refine ⟨.of_idle h.valid h.store rfl, ?_, rfl, rfl, fun a => by simp [byteDue, hm],
      ⟨rfl, rfl, rfl, rfl, rfl⟩⟩
    simp only [ticksLeft, hm, respondOk_mode]
    omega
  next hmore =>
    refine ⟨⟨h.valid, h.store, h.clr, fun _ => ?_, h.frame⟩, ?_, by simp [hm, hrv], hrd, fun a => rfl,
      ⟨rfl, rfl, rfl, rfl, rfl⟩⟩
    · simp only
      omega
    · simp only [ticksLeft, hm]
      omega

/-- An edge that leaves the frame going. -/
theorem Advances.of_frame {q : List Byte} {cell : Nat} {chan : Chan} {shifting : Bool} {sr : Byte}
    {nbit tcnt : Nat} {t : State}
    (ht : t = { s with
      q := q, cell := cell, chan := chan, shifting := shifting, sr := sr, nbit := nbit, tcnt := tcnt })
    (hm : s.mode = .frame) (hf : InFrame t) (hticks : frameTicksLeft t + 1 = frameTicksLeft s) :
    Advances s t := by
  subst ht
  refine ⟨⟨h.valid, h.store, h.clr, h.gap, fun _ => hf⟩, ?_, by simp [hm, hrv], hrd, fun a => rfl,
    ⟨rfl, rfl, rfl, rfl, rfl⟩⟩
  rw [ticksLeft_of_frame hm, ticksLeft_of_frame (by exact hm), ← hticks]
  exact Nat.add_right_comm ..

/-- An edge after whose serializer sub-steps a window is on the wire, one tick nearer to the frame's end. -/
theorem Advances.of_window {q : List Byte} {sr : Byte} {nbit tcnt : Nat} {u : State}
    (hu : u = { s with q := q, shifting := true, sr := sr, nbit := nbit, tcnt := tcnt })
    (hm : s.mode = .frame) (hw : 1 ≤ nbit ∧ nbit ≤ 8 ∧ tcnt < s.cfg.symTicks)
    (hticks : frameTicksLeft u + 1 = frameTicksLeft s) :
    ∃ t, (onNext (converterPush u) fun t => .next (frameEndCheck t)) = .next t ∧ Advances s t := by
  subst hu
  obtain ⟨-, hp, -⟩ := h.frame hm
  obtain ⟨-, -, -, -, -, -, -, hdepth⟩ := h.valid
  obtain ⟨q', cell, chan, hx, hf, hdue, -⟩ :=
    frame_goes_on (s := { s with q := q, shifting := true, sr := sr, nbit := nbit, tcnt := tcnt })
      (fun _ => hw) hp hdepth (by simp)
  refine ⟨_, hx, .of_frame h hrv hrd rfl hm hf ?_⟩
  rw [frameTicksLeft_of_shifting rfl, hdue, ← hticks, frameTicksLeft_of_shifting rfl]

/-- One edge of the `FRAME` arm (R160, R163 to R166). -/
theorem frameArm_advances (hm : s.mode = .frame) : ∃ t, frameArm s = .next t ∧ Advances s t := by
  obtain ⟨hw, hp, hl⟩ := h.frame hm
  obtain ⟨-, -, hsum, hshort, -, -, hlatch, hdepth⟩ := h.valid
  unfold frameArm
  rcases serializer_cases hw with ⟨hs, ht, he⟩ | ⟨⟨hs, ht⟩, hn, he⟩ | ⟨byte, rest, hlast, hq, he⟩ |
    ⟨⟨hs, ht⟩, hn, hq, he⟩ | ⟨hs, hq, he⟩ <;> rw [he]
  · -- inside a window
    obtain ⟨h1, h8, -⟩ := hw hs
    refine Advances.of_window h hrv hrd (by rw [← hs]) hm ⟨h1, h8, by omega⟩ ?_
    rw [frameTicksLeft_of_shifting hs, frameTicksLeft_of_shifting (by exact hs)]
    simp only [bytesDue, bytesPushed]
    omega
  · -- the next bit of the byte
    obtain ⟨-, h8, -⟩ := hw hs
    refine Advances.of_window h hrv hrd (by rw [← hs]) hm ⟨by omega, by omega, by omega⟩ ?_
    rw [frameTicksLeft_of_shifting hs, frameTicksLeft_of_shifting (by exact hs),
      show s.nbit - 1 + 8 * bytesDue s = (s.nbit - 1 - 1 + 8 * bytesDue s) + 1 by omega, Nat.mul_succ]
    simp only [bytesDue, bytesPushed]
    omega
  · -- a byte is loaded
    refine Advances.of_window h hrv hrd rfl hm ⟨by omega, by omega, by omega⟩ ?_
    have hdue : 8 * bytesDue s = (8 - 1 + 8 * (rest.length + (3 * s.cfg.n - bytesPushed s))) + 1 := by
      rw [bytesDue, hq, List.length_cons]
      omega
    rw [frameTicksLeft_of_shifting rfl]
    rcases hs : s.shifting with _ | _
    · rw [frameTicksLeft_of_not_shifting hs, hdue, hq, if_neg (by simp), Nat.mul_succ]
      simp only [bytesDue, bytesPushed]
      omega
    · obtain ⟨⟨-, ht⟩, hn⟩ := hlast hs
      rw [frameTicksLeft_of_shifting hs, hdue, hn, ht, Nat.sub_self, Nat.zero_add, Nat.mul_succ]
      simp only [bytesDue, bytesPushed]
      omega
  · -- the last window ends
    have hend := (hl hq).1 hs
    refine ⟨_, frame_ends rfl hq hend, ?_⟩
    refine ⟨⟨h.valid, h.store, by simp, fun _ => by simp only; omega, by simp⟩, ?_, by simp [hrv], hrd,
      fun a => by simp [byteDue, hm], ⟨rfl, rfl, rfl, rfl, rfl⟩⟩
    rw [ticksLeft_of_frame hm, frameTicksLeft_of_shifting hs, bytesDue, hq, hend, hn, ht]
    simp only [ticksLeft, List.length_nil, Nat.sub_self]
    omega
  · -- before the first byte is queued
    have hmore : bytesPushed s ≠ 3 * s.cfg.n := fun he => by simp [(hl hq).2 he] at hs
    obtain ⟨q, cell, chan, hx, hf, hdue, hne⟩ := frame_goes_on hw hp hdepth fun _ => hmore
    refine ⟨_, hx, .of_frame h hrv hrd rfl hm hf ?_⟩
    rw [frameTicksLeft_of_not_shifting (by exact hs), frameTicksLeft_of_not_shifting hs, hdue, hq,
      if_neg (hne hs), if_pos rfl]
    exact Nat.add_right_comm ..

/-- One edge of a command in progress. -/
theorem modeArm_advances (hm : s.mode ≠ .idle) : ∃ t, modeArm s = .next t ∧ Advances s t := by
  unfold modeArm
  split
  case h_1 hi => exact absurd hi hm
  case h_2 hc => exact clrArm_advances h hrv hrd hc
  case h_3 hf => exact frameArm_advances h hrv hrd hf
  case h_4 hg => exact ⟨_, rfl, gapArm_advances h hrv hrd hg⟩

end Arms

/-- Every edge without reset brings the response of the command in progress one tick nearer. -/
theorem step_advances {s : State} (h : InCommand s) (hm : s.mode ≠ .idle) (hr : s.pins.rst = false) :
    ∃ t, step s = .next t ∧ Advances s t := by
  obtain ⟨t, ht, ha⟩ := modeArm_advances h.clearResponse rfl rfl hm
  rw [← clockEdge_of_rst_eq_false hr] at ht
  exact ⟨_, step_of_clockEdge h.valid ht, ha.inCommand.afterEdge _, ha.ticks, ha.answers, ha.rspd, ha.store,
    ha.flags⟩

end Sys2Proof.Machine
end

section
/-! The tick level refines the transaction level (00_scope.md R16): the simulation relation between a row of
R150 and a state with that many edges to go, set up by the accepting edge and kept by every later one. -/

namespace Sys2Proof.Machine

/-- From `u`, `k` edges complete the transaction `x`. -/
structure Completes (x : Txn) (k : Nat) (u : State) : Prop where
  inCommand : InCommand u
  ticks : ticksLeft u = k
  answers : u.rspv = decide (u.mode = .idle)
  rsp : x.rsp = if u.mode = .idle then u.rspd else 0
  store : ∀ a, byteDue u a = readByte x.after.pix a
  flags : SameFlags x.after u

theorem Completes.afterEdge {x : Txn} {k : Nat} {u : State} (h : Completes x k u) (a : Bool) :
    Completes x k (afterEdge a u) :=
  ⟨h.inCommand.afterEdge a, h.ticks, h.answers, h.rsp, h.store, h.flags⟩

theorem SameFlags.trans {s t u : State} (h : SameFlags s t) (k : SameFlags t u) : SameFlags s u := by
  obtain ⟨h1, h2, h3, h4, h5⟩ := h
  obtain ⟨k1, k2, k3, k4, k5⟩ := k
  exact ⟨k1.trans h1, k2.trans h2, k3.trans h3, k4.trans h4, k5.trans h5⟩

theorem Completes.mode_ne_idle {x : Txn} {k : Nat} {u : State} (h : Completes x (k + 1) u) :
    u.mode ≠ .idle := fun hm => by
  have h0 := ticksLeft_of_idle hm
  rw [h.ticks] at h0
  cases h0

/-- Until its response a transaction leaves the port closed and gives no response. -/
theorem Completes.busy {x : Txn} {k : Nat} {u : State} (h : Completes x (k + 1) u) :
    u.rspv = false ∧ cmdReady u = false :=
  ⟨by simp [h.answers, h.mode_ne_idle], by simp [cmdReady, h.mode_ne_idle]⟩

/-- With no edge left the transaction is done as its row says. -/
theorem Completes.done {x : Txn} {u : State} (h : Completes x 0 u) :
    u.rspv = true ∧ u.rspd = x.rsp ∧ u.mode = .idle ∧ SameStore x.after u ∧ SameFlags x.after u := by
  have hm := h.inCommand.mode_of_ticksLeft_eq_zero h.ticks
  refine ⟨by simp [h.answers, hm], by simp [h.rsp, hm], hm, fun a => ?_, h.flags⟩
  rw [← h.store, byteDue_of_not_clr (by simp [hm])]

theorem Completes.step {x : Txn} {k : Nat} {u : State} (h : Completes x (k + 1) u)
    (hr : u.pins.rst = false) : ∃ v, step u = .next v ∧ Completes x k v := by
  have hm := h.mode_ne_idle
  obtain ⟨v, hv, ha⟩ := step_advances h.inCommand hm hr
  refine ⟨v, hv, ha.inCommand, Nat.succ.inj (ha.ticks.trans h.ticks), ha.answers, ?_,
    fun a => (ha.store a).trans (h.store a), h.flags.trans ha.flags⟩
  rw [h.rsp, if_neg hm, ha.rspd, ite_self]

/-- A transaction in progress goes on edge by edge. -/
theorem Completes.run {x : Txn} {j k : Nat} {u : State} (h : Completes x (k + j) u)
    (hr : NoReset (k + j) u) : ∃ v, run j u = .next v ∧ Completes x k v := by
  induction j generalizing u with
  | zero => exact ⟨u, rfl, h⟩
  | succ j ih =>
    obtain ⟨v, hv, hc⟩ := h.step hr.rst_eq_false
    rw [run_succ hv]
    exact ih hc (hr.tail hv)

/-! ### The accepting edge -/

theorem execInit_reinit {s : State} (hi : s.initd = true) : execInit s = .next (raiseFault .reinit s) :=
  if_pos hi

theorem execInit_noChan {s : State} (hi : s.initd = false) (ha : s.pins.chanAvail = false) :
    execInit s = .next (raiseFault .noChan s) := by
  simp [execInit, hi, ha]

theorem execInit_claims {s : State} (hi : s.initd = false) (ha : s.pins.chanAvail = true) :
    execInit s = .next { s with initd := true, mode := .gap, gapCnt := s.cfg.latchTicks } := by
  simp [execInit, hi, ha]

theorem execWrite_notInit {s : State} (hi : s.initd = false) :
    execWrite s = .next (raiseFault .notInit s) := by
  simp [execWrite, hi]

theorem execWrite_starts {s : State} (hi : s.initd = true) :
    execWrite s = .next { s with mode := .frame, cell := 0, chan := .green } := by
  simp [execWrite, hi]

/-- A row without further edges: the command is done at the accepting edge. -/
theorem completes_of_idle {x : Txn} {t : State} (hx : x.edges = 0) (hv : t.cfg.Valid) (hp : t.pix.wf)
    (hm : t.mode = .idle) (ha : t.rspv = true) (hd : x.rsp = t.rspd)
    (hs : ∀ a, readByte t.pix a = readByte x.after.pix a) (hf : SameFlags x.after t) :
    Completes x x.edges t :=
  ⟨.of_idle hv hp hm, by rw [hx, ticksLeft_of_idle hm], by simp [ha, hm], by simp [hd, hm],
    fun a => by rw [byteDue_of_not_clr (by simp [hm]), hs], hf⟩

section Accepted

variable {s : State} (h : s.Inv) (hm : s.mode = .idle)

include h hm

/-- A row that raises a command fault (R220). -/
theorem completes_raiseFault (f : CmdFault) :
    Completes ⟨setFaultFlag f s, rspWord (faultCode f) 0 0 0, [], 0⟩ 0 (raiseFault f (clearResponse s)) := by
  obtain ⟨hv, ⟨hp, -⟩, -⟩ := h
  cases f <;> exact completes_of_idle rfl hv hp hm rfl rfl (fun _ => rfl) ⟨rfl, rfl, rfl, rfl, rfl⟩

variable {w : Word}

/-- R140 to R143. -/
theorem accept_init (hd : decode w = .ok .init) : ∃ t, exec .init (clearResponse s) = .next t ∧
    Completes (transact w s) (transact w s).edges t := by
  rcases hi : s.initd with _ | _
  · have hi' : ¬ s.initd = true := by simp [hi]
    rcases ha : s.pins.chanAvail with _ | _
    · refine ⟨_, execInit_noChan hi ha, ?_⟩
      simp only [transact, hd, if_neg hi', if_pos ha]
      exact completes_raiseFault h hm .noChan
    · refine ⟨_, execInit_claims hi ha, ?_⟩
      simp only [transact, hd, if_neg hi', ha, reduceCtorEq, if_false]
      obtain ⟨hv, ⟨hp, -⟩, -⟩ := h
      obtain ⟨-, -, -, -, -, -, hlatch, -⟩ := id hv
      exact ⟨⟨hv, hp, by simp, fun _ => Nat.one_le_of_lt hlatch, by simp⟩, rfl, by simp, by simp,
        byteDue_of_not_clr (by simp), ⟨rfl, rfl, rfl, rfl, rfl⟩⟩
  · refine ⟨_, execInit_reinit hi, ?_⟩
    simp only [transact, hd, if_pos hi]
    exact completes_raiseFault h hm .reinit

/-- R144 to R147. -/
theorem accept_write (hd : decode w = .ok .write) : ∃ t, exec .write (clearResponse s) = .next t ∧
    Completes (transact w s) (transact w s).edges t := by
  rcases hi : s.initd with _ | _
  · refine ⟨_, execWrite_notInit hi, ?_⟩
    simp only [transact, hd, if_pos hi]
    exact completes_raiseFault h hm .notInit
  · refine ⟨_, execWrite_starts hi, ?_⟩
    simp only [transact, hd, hi, reduceCtorEq, if_false]
    obtain ⟨hv, ⟨hp, -⟩, ⟨hrest, -⟩, -⟩ := h
    obtain ⟨h0, -⟩ := id hv
    obtain ⟨hq, hs⟩ := hrest (by simp [hm])
    refine ⟨⟨hv, hp, by simp, by simp, fun _ => ⟨by simp [hs], Nat.zero_le _, fun _ => ?_⟩⟩, ?_, by simp,
      by simp, byteDue_of_not_clr (by simp), ⟨rfl, rfl, rfl, rfl, rfl⟩⟩
    · rw [bytesPushed_eq_zero rfl rfl]
      exact iff_of_false (by simp [hs]) (by simp only [clearResponse_cfg]; omega)
    · rw [ticksLeft_of_frame rfl, frameTicksLeft_of_not_shifting (by exact hs), if_pos (by exact hq), bytesDue,
        bytesPushed_eq_zero rfl rfl]
      simp only [clearResponse_q, hq, clearResponse_cfg, List.length_nil, Nat.sub_zero]
      ring

/-- R120 to R122. -/
theorem accept_setPix {idx r g b : Byte} (hd : decode w = .ok (.setPix idx r g b)) :
    ∃ t, exec (.setPix idx r g b) (clearResponse s) = .next t ∧
      Completes (transact w s) (transact w s).edges t := by
  simp only [transact, hd, exec, execSetPix]
  rcases Nat.lt_or_ge idx.toNat s.cfg.n with hi | hi
  · obtain ⟨hv, ⟨hp, -⟩, -⟩ := h
    rw [withCell_of_lt (by exact hi), storePixel_of_lt (by exact hi), onNext_next, if_neg (Nat.not_le.2 hi)]
    exact ⟨_, rfl, completes_of_idle rfl hv (wf_writePixel hp _ _) hm rfl rfl (fun _ => rfl)
      ⟨rfl, rfl, rfl, rfl, rfl⟩⟩
  · rw [withCell_of_le (by exact hi), if_pos hi]
    exact ⟨_, rfl, completes_raiseFault h hm .index⟩

/-- R125: what the row of `CLEAR` leaves to later edges is the cells from cell 1 on. -/
theorem accept_clear (hd : decode w = .ok .clear) : ∃ t, exec .clear (clearResponse s) = .next t ∧
    Completes (transact w s) (transact w s).edges t := by
  obtain ⟨hv, hstore, -⟩ := h
  obtain ⟨h0, -⟩ := id hv
  have hp := wf_writePixel hstore.1 0 .black
  simp only [transact, hd, exec, execClear]
  rw [storePixel_of_lt (by exact h0), onNext_next]
  by_cases h1 : s.cfg.n = 1
  · rw [if_pos (by exact h1)]
    refine ⟨_, rfl, completes_of_idle (by simp [h1]) hv hp hm rfl rfl (fun a => ?_) ⟨rfl, rfl, rfl, rfl, rfl⟩⟩
    have hpast := @readByte_past_store s hstore a
    simp only [respondOk_pix, clearResponse_pix, readByte_writePixel_black hstore.1, readByte_nil]
    split_ifs
    · rfl
    · exact hpast (by omega)
  · rw [if_neg (by exact h1)]
    refine ⟨_, rfl, ⟨hv, hp, fun _ => ?_, by simp, by simp⟩, rfl, by simp, by simp, fun a => ?_,
      ⟨rfl, rfl, rfl, rfl, rfl⟩⟩
    · simp only [clearResponse_cfg]
      omega
    · have hpast := @readByte_past_store s hstore a
      simp only [byteDue, true_and, clearResponse_cfg, clearResponse_pix, readByte_writePixel_black hstore.1,
        readByte_nil]
      split_ifs
      · rfl
      · rfl
      · exact hpast (by omega)

/-- R130 to R132. -/
theorem accept_get {idx : Byte} (hd : decode w = .ok (.get idx)) :
    ∃ t, exec (.get idx) (clearResponse s) = .next t ∧
      Completes (transact w s) (transact w s).edges t := by
  simp only [transact, hd, exec, execGet]
  rcases Nat.lt_or_ge idx.toNat s.cfg.n with hi | hi
  · obtain ⟨hv, ⟨hp, -⟩, -⟩ := h
    rw [withCell_of_lt (by exact hi), withPixel_of_lt (by exact hi), if_neg (Nat.not_le.2 hi)]
    exact ⟨_, rfl, completes_of_idle rfl hv hp hm rfl rfl (fun _ => rfl) ⟨rfl, rfl, rfl, rfl, rfl⟩⟩
  · rw [withCell_of_le (by exact hi), if_pos hi]
    exact ⟨_, rfl, completes_raiseFault h hm .index⟩

/-- R148. -/
theorem accept_stat (hd : decode w = .ok .stat) : ∃ t, exec .stat (clearResponse s) = .next t ∧
    Completes (transact w s) (transact w s).edges t := by
  simp only [transact, hd, exec, execStat]
  obtain ⟨hv, ⟨hp, -⟩, -⟩ := h
  exact ⟨_, rfl, completes_of_idle rfl hv hp hm rfl rfl (fun _ => rfl) ⟨rfl, rfl, rfl, rfl, rfl⟩⟩

end Accepted

/-- The accepting edge sets up the row of the word. -/
theorem execute_completes {s : State} (h : s.Inv) (hm : s.mode = .idle) (w : Word) :
    ∃ t, execute w (clearResponse s) = .next t ∧ Completes (transact w s) (transact w s).edges t := by
  rcases execute_eq w (clearResponse s) with ⟨i, hd, he⟩ | ⟨e, hd, he⟩ <;> rw [he]
  · cases i with
    | init => exact accept_init h hm hd
    | write => exact accept_write h hm hd
    | setPix idx r g b => exact accept_setPix h hm hd
    | clear => exact accept_clear h hm hd
    | get idx => exact accept_get h hm hd
    | stat => exact accept_stat h hm hd
  · simp only [transact, hd]
    exact ⟨_, rfl, completes_raiseFault h hm .illegal⟩

/-- Settles O49: the accepting edge sets up the row's transaction, and every later edge goes on with it. -/
theorem ticksRefineTransactions : Obligations.TicksRefineTransactions := by
  intro s h hacc hr
  obtain ⟨-, -, hm, -⟩ := (accepts_iff s).1 hacc
  obtain ⟨t, ht, hc⟩ := execute_completes h hm s.pins.cmdData
  rw [← clockEdge_of_accepts hacc] at ht
  have hstep := step_of_clockEdge h.1 ht
  replace hc := hc.afterEdge (accepts s)
  replace hr := hr.tail hstep
  generalize (transact s.pins.cmdData s).edges = n at *
  refine ⟨fun j h1 hj => ?_, ?_⟩
  · obtain ⟨i, rfl⟩ := Nat.exists_eq_add_of_le' h1
    obtain ⟨k, rfl⟩ := Nat.exists_eq_add_of_le hj
    rw [run_succ hstep]
    rw [show i + 1 + k = k + 1 + i by omega] at hc hr
    obtain ⟨v, hv, hk⟩ := hc.run hr
    exact ⟨v, hv, hk.busy⟩
  · rw [run_succ hstep]
    rw [← Nat.zero_add n] at hc hr
    obtain ⟨u, hu, hk⟩ := hc.run hr
    exact ⟨u, hu, hk.done⟩

end Sys2Proof.Machine
end

section
/-! One edge of the block, case by case, and what the commands, the engine and the chain keep on it: the facts
that the invariant, the flags and the responses all rest on. -/

namespace Sys2Proof.Machine

/-! ### The cases of an edge -/

theorem commandAt_eq_some_iff (s : State) (i : Instr) :
    commandAt s = some i ↔ accepts s = true ∧ decode s.pins.cmdData = .ok i := by
  unfold commandAt
  split
  · next ha => split <;> simp [*]
  · next ha => simp [ha]

theorem commandAt_eq_none_of_not_accepts {s : State} (h : accepts s = false) : commandAt s = none :=
  if_neg (by simp [h])

theorem not_accepts_of_mode_ne_idle {s : State} (h : s.mode ≠ .idle) : accepts s = false := by
  simp [accepts, cmdReady, h]

/-- What one edge of the block can do, arm by arm (R160). -/
inductive EdgeCase (s : State) : State → Prop
  | reset (hr : s.pins.rst = true) : EdgeCase s (resetBlock s)
  | command {i : Instr} {t : State} (hr : s.pins.rst = false) (hc : commandAt s = some i)
      (ht : exec i (clearResponse s) = .next t) : EdgeCase s t
  | illegal {e : Illegal} (hr : s.pins.rst = false) (ha : accepts s = true)
      (hd : decode s.pins.cmdData = .error e) : EdgeCase s (raiseFault .illegal (clearResponse s))
  | rest (hr : s.pins.rst = false) (hm : s.mode = .idle) (ha : accepts s = false) :
      EdgeCase s (clearResponse s)
  | clr {t : State} (hr : s.pins.rst = false) (hm : s.mode = .clr)
      (ht : clrArm (clearResponse s) = .next t) : EdgeCase s t
  | frame {t : State} (hr : s.pins.rst = false) (hm : s.mode = .frame)
      (ht : frameArm (clearResponse s) = .next t) : EdgeCase s t
  | gap (hr : s.pins.rst = false) (hm : s.mode = .gap) : EdgeCase s (gapArm (clearResponse s))

theorem EdgeCase.of_accepts {s t : State} (ha : accepts s = true) (h : clockEdge s = .next t) :
    EdgeCase s t := by
  obtain ⟨hr, -⟩ := (accepts_iff s).1 ha
  rw [clockEdge_of_accepts ha] at h
  rcases execute_eq s.pins.cmdData (clearResponse s) with ⟨i, hd, he⟩ | ⟨e, hd, he⟩ <;> rw [he] at h
  · exact .command hr ((commandAt_eq_some_iff s i).2 ⟨ha, hd⟩) h
  · cases h
    exact .illegal hr ha hd

/-- An edge in `IDLE` that accepts nothing only clears the response. -/
theorem idleArm_of_not_accepts {s : State} (hr : s.pins.rst = false) (hm : s.mode = .idle)
    (ha : accepts s = false) : idleArm (clearResponse s) = .next (clearResponse s) := by
  refine if_neg fun ⟨hv, hf⟩ => ?_
  rw [(accepts_iff s).2 ⟨hr, hv, hm, hf⟩] at ha
  cases ha

theorem edgeCase_of_clockEdge {s t : State} (h : clockEdge s = .next t) : EdgeCase s t := by
  rcases hr : s.pins.rst with _ | _
  · rcases ha : accepts s with _ | _
    · rw [clockEdge_of_rst_eq_false hr] at h
      unfold modeArm at h
      split at h
      · next hm =>
        rw [idleArm_of_not_accepts hr hm ha] at h
        cases h
        exact .rest hr hm ha
      · next hm => exact .clr hr hm h
      · next hm => exact .frame hr hm h
      · next hm =>
        cases h
        exact .gap hr hm
    · exact .of_accepts ha h
  · rw [clockEdge, if_pos hr] at h
    cases h
    exact .reset hr

/-- With `rst = 1` the other cases are shut out. -/
theorem EdgeCase.eq_resetBlock {s t : State} (h : EdgeCase s t) (hr : s.pins.rst = true) :
    t = resetBlock s := by
  cases h with
  | reset _ => rfl
  | _ => simp_all

/-- A step is one of these edges of the block, and then the chain's and the host's part. -/
theorem edgeCase_of_step {s u : State} (h : step s = .next u) :
    s.cfg.Valid ∧ ∃ t, EdgeCase s t ∧ u = afterEdge (accepts s) t := by
  obtain ⟨hv, t, ht, hu⟩ := step_eq_next h
  exact ⟨hv, t, edgeCase_of_clockEdge ht, hu⟩

theorem step_of_commandAt {s t : State} {i : Instr} (hv : s.cfg.Valid) (hc : commandAt s = some i)
    (ht : exec i (clearResponse s) = .next t) : step s = .next (afterEdge true t) := by
  obtain ⟨ha, hd⟩ := (commandAt_eq_some_iff s i).1 hc
  rw [← ha]
  refine step_of_clockEdge hv ?_
  rw [clockEdge_of_accepts ha, execute, hd]
  exact ht

theorem step_of_rst {s : State} (hv : s.cfg.Valid) (hr : s.pins.rst = true) :
    step s = .next (afterEdge (accepts s) (resetBlock s)) :=
  step_of_clockEdge hv (if_pos hr)

/-! ### What the engine leaves alone -/

theorem SameFlags.rfl (s : State) : SameFlags s s := ⟨.refl _, .refl _, .refl _, .refl _, .refl _⟩

/-- What every sub-step of a `FRAME` edge leaves alone; the mode can only go on to `GAP`. -/
def EngineOnly (s t : State) : Prop :=
  SameFlags s t ∧ t.rspv = s.rspv ∧ (t.mode = s.mode ∨ t.mode = .gap)

theorem EngineOnly.rfl (s : State) : EngineOnly s s := ⟨.rfl s, .refl _, .inl (.refl _)⟩

theorem EngineOnly.trans {s t u : State} (h : EngineOnly s t) (k : EngineOnly t u) : EngineOnly s u := by
  obtain ⟨hf, hr, hm⟩ := h
  obtain ⟨kf, kr, km⟩ := k
  exact ⟨hf.trans kf, kr.trans hr, km.elim (fun e => e ▸ hm) .inr⟩

theorem serializerAdvance_engineOnly (s : State) : EngineOnly s (serializerAdvance s) := by
  unfold serializerAdvance
  split_ifs <;> exact .rfl s

theorem serializerLoad_engineOnly (s : State) : EngineOnly s (serializerLoad s) := by
  unfold serializerLoad
  split <;> exact .rfl s

theorem converterNext_engineOnly (s : State) : EngineOnly s (converterNext s) := by
  unfold converterNext
  split <;> exact .rfl s

theorem converterPush_engineOnly {s t : State} (h : converterPush s = .next t) : EngineOnly s t := by
  rw [converterPush_eq] at h
  cases h
  split
  · exact converterNext_engineOnly { s with q := _ }
  · exact .rfl s

theorem frameEndCheck_engineOnly (s : State) : EngineOnly s (frameEndCheck s) := by
  unfold frameEndCheck
  split
  · exact ⟨.rfl s, rfl, .inr rfl⟩
  · exact .rfl s

theorem frameArm_engineOnly {s t : State} (h : frameArm s = .next t) : EngineOnly s t := by
  obtain ⟨u, hu, hf⟩ := frameArm_eq s
  rw [hf] at h
  cases h
  exact ((serializerAdvance_engineOnly s).trans (serializerLoad_engineOnly _)).trans
    ((converterPush_engineOnly hu).trans (frameEndCheck_engineOnly u))

/-- What the `GAP` arm can do. -/
theorem gapArm_cases (s : State) :
    (s.gapCnt - 1 = 0 ∧ gapArm s = respondOk { s with gapCnt := 0, mode := .idle }) ∨
    (s.gapCnt - 1 ≠ 0 ∧ gapArm s = { s with gapCnt := s.gapCnt - 1 }) := by
  by_cases h : s.gapCnt - 1 = 0
  · exact .inl ⟨h, if_pos h⟩
  · exact .inr ⟨h, if_neg h⟩

/-! ### The chain keeps one colour per LED -/

theorem length_showBurst (bits : List Bool) (leds : List Pixel) :
    (showBurst bits leds).length = leds.length := by
  induction leds generalizing bits with
  | nil => rfl
  | cons c leds ih =>
    unfold showBurst
    split
    · rw [List.length_cons, List.length_cons, ih]
    · rfl

@[simp] theorem length_freeColours (len : Nat) (c : Chain) : (freeColours len c).shown.length = len := by
  simp [freeColours]

@[simp] theorem length_loseMeaning (cfg : Config) (c : Chain) :
    (loseMeaning cfg c).shown.length = cfg.chainLen := length_freeColours _ _

@[simp] theorem length_lowPeriod (cfg : Config) (c : Chain) :
    (lowPeriod cfg c).shown.length = c.shown.length := by
  unfold lowPeriod
  split
  · exact length_showBurst c.bits c.shown
  · rfl

theorem length_observeDriven {cfg : Config} {c : Chain} (h : c.shown.length = cfg.chainLen) (high : Bool) :
    (observeDriven cfg high c).shown.length = cfg.chainLen := by
  unfold observeDriven
  split
  · unfold observeHigh
    split_ifs
    exacts [length_loseMeaning cfg c, length_loseMeaning cfg c, h]
  · unfold observeLow
    split_ifs
    exacts [(length_lowPeriod cfg c).trans h, (length_lowPeriod cfg (endPulse cfg c)).trans h,
      length_loseMeaning cfg c]

/-- R206: a period of the wire changes colours, never how many there are. -/
theorem length_observe {cfg : Config} {c : Chain} (h : c.shown.length = cfg.chainLen) (level : Line) :
    (observe cfg level c).shown.length = cfg.chainLen := by
  unfold observe
  split
  · exact length_freeColours _ _
  all_goals
    split
    exacts [length_loseMeaning cfg c, length_observeDriven (c := restartWatch .on c) h _,
      length_observeDriven h _]

end Sys2Proof.Machine
end

section
/-! The invariant of reachable states (10_state.md R36): a reset sets it up, and every command, every arm
and so every step keeps it. -/

namespace Sys2Proof.Machine

/-! ### The updates of every edge -/

theorem inv_afterEdge {s : State} (h : s.Inv) (a : Bool) : (afterEdge a s).Inv := by
  obtain ⟨hv, hp, hr, hg, hf, hrsp, he, hc, hch⟩ := h
  exact ⟨hv, hp, hr, hg, hf, hrsp, he, hc, length_observe hch _⟩

theorem inv_clearResponse {s : State} (h : s.Inv) : (clearResponse s).Inv := by
  obtain ⟨hv, hp, hr, hg, hf, -, he, hc, hch⟩ := h
  exact ⟨hv, hp, hr, hg, hf, ⟨by simp, by simp⟩, he, hc, hch⟩

/-- R42: a reset edge leaves the invariant, whatever the block was doing. -/
theorem inv_resetBlock {s : State} (hv : s.cfg.Valid) (hch : ChainOk s) : (resetBlock s).Inv := by
  obtain ⟨hn, -⟩ := id hv
  exact ⟨hv, ⟨Memory.wf_nil, by simp⟩, ⟨by simp, by simp⟩, ⟨by simp, by simp⟩, ⟨by simp, by simp⟩,
    ⟨by simp, by simp⟩, ⟨Nat.zero_le _, by simp, Nat.zero_le _, by simp⟩, ⟨hn, by simp⟩, hch⟩

theorem inv_respond {s : State} (h : s.Inv) (hm : s.mode = .idle) (c d2 d1 d0 : Byte) :
    (respond c d2 d1 d0 s).Inv := by
  obtain ⟨hv, hp, hr, hg, hf, -, he, hc, hch⟩ := h
  exact ⟨hv, hp, hr, hg, hf, ⟨fun _ => hm, by simp⟩, he, hc, hch⟩

/-- A command fault sets a flag; the fatal one needs an unclaimed channel (R36 (d)). -/
theorem inv_raiseFault {s : State} (h : s.Inv) (hm : s.mode = .idle) (f : CmdFault)
    (hf : f = .noChan → s.initd = false) : (raiseFault f s).Inv := by
  refine inv_respond ?_ (by cases f <;> exact hm) _ _ _ _
  cases f with
  | noChan =>
    obtain ⟨hv, hp, hr, hg, ⟨hbusy, -⟩, hrsp, he, hc, hch⟩ := h
    exact ⟨hv, hp, hr, hg, ⟨hbusy, fun _ => ⟨hf rfl, hm⟩⟩, hrsp, he, hc, hch⟩
  | index => exact h
  | illegal => exact h
  | notInit => exact h
  | reinit => exact h

/-- A pixel write to a mapped cell keeps the store canonical and within its cells. -/
theorem inv_writePixel {s : State} (h : s.Inv) {i : Nat} (hi : i < s.cfg.n) (p : Pixel) :
    State.Inv { s with pix := writePixel s.pix i p } := by
  obtain ⟨hv, ⟨hwf, hlt⟩, hrest⟩ := h
  refine ⟨hv, ⟨wf_writePixel hwf i p, fun c hc => ?_⟩, hrest⟩
  rcases mem_writePixel hc with hc | ⟨-, hc⟩
  · exact hlt c hc
  · simp only
    omega

/-! ### The commands -/

section Accepting

variable {s t : State} (h : s.Inv) (hm : s.mode = .idle)

include h hm

theorem inv_execInit (hrv : s.rspv = false) (hf : s.fatal = false) (ht : execInit s = .next t) : t.Inv := by
  rcases execInit_eq_next ht with ⟨-, rfl⟩ | ⟨hi, -, rfl⟩ | ⟨-, -, rfl⟩
  · exact inv_raiseFault h hm _ (by simp)
  · exact inv_raiseFault h hm _ fun _ => hi
  · obtain ⟨hv, hp, ⟨hrest, hz⟩, -, -, ⟨-, hrd⟩, he, ⟨hc, -⟩, hch⟩ := h
    obtain ⟨-, -, -, -, -, -, hlatch, -⟩ := id hv
    exact ⟨hv, hp, ⟨fun _ => hrest (by simp [hm]), hz⟩, ⟨by simp, fun _ => ⟨Nat.one_le_of_lt hlatch, le_rfl⟩⟩,
      ⟨fun _ => rfl, by simp [hf]⟩, ⟨by simp [hrv], hrd⟩, he, ⟨hc, by simp⟩, hch⟩

theorem inv_execWrite (hrv : s.rspv = false) (hf : s.fatal = false) (ht : execWrite s = .next t) : t.Inv := by
  rcases execWrite_eq_next ht with ⟨-, rfl⟩ | ⟨hi, rfl⟩
  · exact inv_raiseFault h hm _ (by simp)
  · obtain ⟨hv, hp, ⟨-, hz⟩, ⟨hg, -⟩, -, ⟨-, hrd⟩, ⟨hq, hw, -⟩, ⟨hc, -⟩, hch⟩ := h
    exact ⟨hv, hp, ⟨by simp, hz⟩, ⟨fun _ => hg (by simp [hm]), by simp⟩, ⟨fun _ => hi, by simp [hf]⟩,
      ⟨by simp [hrv], hrd⟩, ⟨hq, hw, Nat.zero_le _, by simp⟩, ⟨hc, by simp⟩, hch⟩

theorem inv_execClear (hrv : s.rspv = false) (hf : s.fatal = false) (ht : execClear s = .next t) : t.Inv := by
  obtain ⟨h0, ⟨-, rfl⟩ | ⟨h1, rfl⟩⟩ := execClear_eq_next ht
  · exact inv_respond (inv_writePixel h h0 _) hm _ _ _ _
  · obtain ⟨hv, hp, ⟨hrest, hz⟩, ⟨hg, -⟩, -, ⟨-, hrd⟩, he, -, hch⟩ := inv_writePixel h h0 .black
    exact ⟨hv, hp, ⟨fun _ => hrest (by simp [hm]), hz⟩, ⟨fun _ => hg (by simp [hm]), by simp⟩,
      ⟨by simp, by simp [hf]⟩, ⟨by simp [hrv], hrd⟩, he, ⟨by simp only; omega, fun _ => le_rfl⟩, hch⟩

/-- Every command body keeps the invariant, from a state that can accept one. -/
theorem inv_exec (hrv : s.rspv = false) (hf : s.fatal = false) {i : Instr} (ht : exec i s = .next t) :
    t.Inv := by
  cases i with
  | init => exact inv_execInit h hm hrv hf ht
  | write => exact inv_execWrite h hm hrv hf ht
  | clear => exact inv_execClear h hm hrv hf ht
  | setPix idx r g b =>
    rcases execSetPix_eq_next ht with ⟨-, rfl⟩ | ⟨hi, rfl⟩
    · exact inv_raiseFault h hm _ (by simp)
    · exact inv_respond (inv_writePixel h hi _) hm _ _ _ _
  | get idx =>
    rcases execGet_eq_next ht with ⟨-, rfl⟩ | ⟨-, rfl⟩
    · exact inv_raiseFault h hm _ (by simp)
    · exact inv_respond h hm _ _ _ _
  | stat =>
    cases execStat_eq_next ht
    exact inv_respond h hm _ _ _ _

end Accepting

/-! ### The arms of a command in progress -/

theorem inv_clrArm {s t : State} (h : s.Inv) (hm : s.mode = .clr) (ht : clrArm s = .next t) : t.Inv := by
  obtain ⟨hi, ⟨-, rfl⟩ | ⟨hlast, rfl⟩⟩ := clrArm_eq_next ht
  · obtain ⟨hv, hp, ⟨hrest, hz⟩, ⟨hg, -⟩, ⟨-, hf⟩, -, he, ⟨hc, -⟩, hch⟩ := inv_writePixel h hi .black
    exact ⟨hv, hp, ⟨fun _ => hrest (by simp [hm]), hz⟩, ⟨fun _ => hg (by simp [hm]), by simp⟩,
      ⟨by simp, fun hfa => ⟨(hf hfa).1, rfl⟩⟩, ⟨fun _ => rfl, by simp⟩, he, ⟨hc, by simp⟩, hch⟩
  · obtain ⟨hv, hp, hr, hg, hf, hrsp, he, -, hch⟩ := inv_writePixel h hi .black
    exact ⟨hv, hp, hr, hg, hf, hrsp, he, ⟨by simp only; omega, fun _ => Nat.le_add_left ..⟩, hch⟩

theorem inv_gapArm {s : State} (h : s.Inv) (hm : s.mode = .gap) : (gapArm s).Inv := by
  obtain ⟨hv, hp, ⟨hrest, hz⟩, ⟨hg, hgap⟩, ⟨hi, hf⟩, hrsp, he, ⟨hc, hcm⟩, hch⟩ := h
  obtain ⟨h1, hle⟩ := hgap hm
  rcases gapArm_cases s with ⟨-, he'⟩ | ⟨hmore, he'⟩ <;> rw [he']
  · exact ⟨hv, hp, ⟨fun _ => hrest (by simp [hm]), hz⟩, ⟨fun _ => rfl, by simp⟩,
      ⟨by simp, fun hfa => ⟨(hf hfa).1, rfl⟩⟩, ⟨fun _ => rfl, by simp⟩, he, ⟨hc, by simp⟩, hch⟩
  · exact ⟨hv, hp, ⟨hrest, hz⟩, ⟨fun hne => absurd hm hne, fun _ => by simp only; omega⟩, ⟨hi, hf⟩, hrsp, he,
      ⟨hc, hcm⟩, hch⟩

/-- The serializer's registers may change within their ranges while the mode is `FRAME`. -/
theorem inv_serializer {s : State} (h : s.Inv) (hm : s.mode = .frame) {q : List Byte} {shifting : Bool}
    {sr : Byte} {nbit tcnt : Nat} (hq : q.length ≤ s.q.length)
    (hon : shifting = true → 1 ≤ nbit ∧ nbit ≤ 8 ∧ tcnt < s.cfg.symTicks)
    (hoff : shifting = false → sr = 0 ∧ nbit = 0 ∧ tcnt = 0) :
    State.Inv { s with q := q, shifting := shifting, sr := sr, nbit := nbit, tcnt := tcnt } := by
  obtain ⟨hv, hp, -, hg, hf, hrsp, ⟨hd, -, hcell⟩, hc, hch⟩ := h
  exact ⟨hv, hp, ⟨fun hne => absurd hm hne, hoff⟩, hg, hf, hrsp, ⟨hq.trans hd, hon, hcell⟩, hc, hch⟩

/-- R163, R164: in each of their cases the serializer sub-steps stay in those ranges. -/
theorem inv_serializerLoad_advance {s : State} (h : s.Inv) (hm : s.mode = .frame) :
    (serializerLoad (serializerAdvance s)).Inv := by
  have hser := @inv_serializer s h hm
  obtain ⟨⟨-, -, hsum, hshort, -⟩, -, -, -, -, -, ⟨-, hw, -⟩, -⟩ := id h
  rcases serializer_cases hw with ⟨hs, ht, he⟩ | ⟨⟨hs, -⟩, hn, he⟩ | ⟨byte, rest, -, hq, he⟩ |
    ⟨-, -, -, he⟩ | ⟨-, -, he⟩ <;> rw [he]
  · obtain ⟨h1, h8, -⟩ := hw hs
    exact hser le_rfl (fun _ => ⟨h1, h8, by omega⟩) (by simp [hs])
  · obtain ⟨-, h8, -⟩ := hw hs
    exact hser le_rfl (fun _ => by omega) (by simp [hs])
  · exact hser (by simp [hq]) (fun _ => by omega) (by simp)
  · exact hser le_rfl (by simp) (by simp)
  · exact h

/-- R165: the converter stays within the cells, and ends at `CHAN` = Green. -/
theorem inv_converterNext {s : State} (h : s.Inv) (hlt : s.cell < s.cfg.n) : (converterNext s).Inv := by
  obtain ⟨hv, hp, hr, hg, hf, hrsp, ⟨hq, hw, -⟩, hc, hch⟩ := h
  unfold converterNext
  split
  · exact ⟨hv, hp, hr, hg, hf, hrsp, ⟨hq, hw, hlt.le, fun he => absurd he hlt.ne⟩, hc, hch⟩
  · exact ⟨hv, hp, hr, hg, hf, hrsp, ⟨hq, hw, hlt.le, fun he => absurd he hlt.ne⟩, hc, hch⟩
  · exact ⟨hv, hp, hr, hg, hf, hrsp, ⟨hq, hw, hlt, fun _ => rfl⟩, hc, hch⟩

theorem inv_converterPush {s t : State} (h : s.Inv) (hm : s.mode = .frame) (ht : converterPush s = .next t) :
    t.Inv := by
  rw [converterPush_eq] at ht
  cases ht
  split
  · next hroom =>
    refine inv_converterNext ?_ hroom.1
    obtain ⟨hv, hp, ⟨-, hz⟩, hg, hf, hrsp, ⟨-, hw⟩, hc, hch⟩ := h
    exact ⟨hv, hp, ⟨fun hne => absurd hm hne, hz⟩, hg, hf, hrsp, ⟨by simp; omega, hw⟩, hc, hch⟩
  · exact h

/-- R166: a frame that ends leaves the engine at rest. -/
theorem inv_frameEndCheck {s : State} (h : s.Inv) (hm : s.mode = .frame) : (frameEndCheck s).Inv := by
  unfold frameEndCheck
  split
  · next hend =>
    obtain ⟨hs, hq, -⟩ := hend
    obtain ⟨hv, hp, ⟨-, hz⟩, -, ⟨hi, hf⟩, ⟨hrm, hrd⟩, he, ⟨hc, -⟩, hch⟩ := h
    obtain ⟨-, -, -, -, -, -, hlatch, -⟩ := id hv
    have hidle : s.mode ≠ .idle := by simp [hm]
    exact ⟨hv, hp, ⟨fun _ => ⟨hq, hs⟩, hz⟩, ⟨by simp, fun _ => ⟨Nat.one_le_of_lt hlatch, le_rfl⟩⟩,
      ⟨fun _ => hi (.inl hm), fun hfa => absurd (hf hfa).2 hidle⟩, ⟨fun hv => absurd (hrm hv) hidle, hrd⟩, he,
      ⟨hc, by simp⟩, hch⟩
  · exact h

theorem serializerLoad_advance_mode (s : State) : (serializerLoad (serializerAdvance s)).mode = s.mode := by
  unfold serializerLoad serializerAdvance
  split_ifs <;> split <;> rfl

theorem converterPush_mode {s t : State} (h : converterPush s = .next t) : t.mode = s.mode := by
  rw [converterPush_eq] at h
  cases h
  split
  · unfold converterNext
    split <;> rfl
  · rfl

/-- R160: the four sub-steps of a `FRAME` edge, each of which keeps the invariant. -/
theorem inv_frameArm {s t : State} (h : s.Inv) (hm : s.mode = .frame) (ht : frameArm s = .next t) :
    t.Inv := by
  obtain ⟨u, hu, hf⟩ := frameArm_eq s
  rw [hf] at ht
  cases ht
  have hm' := (serializerLoad_advance_mode s).trans hm
  exact inv_frameEndCheck (inv_converterPush (inv_serializerLoad_advance h hm) hm' hu)
    ((converterPush_mode hu).trans hm')

/-! ### The step -/

theorem inv_edgeCase {s t : State} (h : s.Inv) (he : EdgeCase s t) : t.Inv := by
  have hcr := inv_clearResponse h
  cases he with
  | reset _ =>
    obtain ⟨hv, -, -, -, -, -, -, -, hch⟩ := h
    exact inv_resetBlock hv hch
  | command _ hc ht =>
    obtain ⟨ha, -⟩ := (commandAt_eq_some_iff _ _).1 hc
    obtain ⟨-, -, hm, hf⟩ := (accepts_iff s).1 ha
    exact inv_exec hcr hm rfl hf ht
  | illegal _ ha _ =>
    obtain ⟨-, -, hm, -⟩ := (accepts_iff s).1 ha
    exact inv_raiseFault hcr hm _ (by simp)
  | rest _ _ _ => exact hcr
  | clr _ hm ht => exact inv_clrArm hcr hm ht
  | frame _ hm ht => exact inv_frameArm hcr hm ht
  | gap _ hm => exact inv_gapArm hcr hm

/-- Settles O28: the block's edge keeps the invariant case by case, and the chain and the host touch only
the count of colours, which stays. -/
theorem stepKeepsInvariant : Obligations.StepKeepsInvariant := by
  intro s u h hstep
  obtain ⟨-, t, ht, rfl⟩ := edgeCase_of_step hstep
  exact inv_afterEdge (inv_edgeCase h ht) _

end Sys2Proof.Machine
end

section
/-! What an edge does to the flags and to the response (10_state.md R24, R33, R35). -/

namespace Sys2Proof.Machine

/-! ### The flags -/

/-- R22 to R24: without a reset each flag is what it was, or set by the command that the spec names. -/
def FlagsAsCommanded (s t : State) : Prop :=
  t.idxf = (s.idxf || indexFaultAt s) ∧
  t.illf = (s.illf || illegalAt s) ∧
  t.seqf = (s.seqf || (commandAt s = some .write && !s.initd) || (commandAt s = some .init && s.initd)) ∧
  t.initd = (s.initd || (commandAt s = some .init && s.pins.chanAvail)) ∧
  t.fatal = (s.fatal || (commandAt s = some .init && !s.initd && !s.pins.chanAvail))

theorem FlagsAsCommanded.of_not_accepts {s t : State} (ha : accepts s = false) (h : SameFlags s t) :
    FlagsAsCommanded s t := by
  obtain ⟨hi, hf, hx, hl, hq⟩ := h
  simp [FlagsAsCommanded, indexFaultAt, illegalAt, commandAt_eq_none_of_not_accepts ha, *]

theorem FlagsAsCommanded.illegal {s : State} {e : Illegal} (ha : accepts s = true)
    (hd : decode s.pins.cmdData = .error e) : FlagsAsCommanded s (raiseFault .illegal (clearResponse s)) := by
  have hc : commandAt s = none := by simp [commandAt, hd]
  simp [FlagsAsCommanded, indexFaultAt, illegalAt, hc, ha, hd]

/-- Each command sets just its own flags. -/
theorem FlagsAsCommanded.exec {s t : State} {i : Instr} (hc : commandAt s = some i)
    (ht : exec i (clearResponse s) = .next t) : FlagsAsCommanded s t := by
  have hl : illegalAt s = false := by simp [illegalAt, ((commandAt_eq_some_iff s i).1 hc).2]
  unfold FlagsAsCommanded indexFaultAt
  rw [hl, hc]
  cases i with
  | init =>
    rcases execInit_eq_next ht with ⟨hi, rfl⟩ | ⟨hi, ha, rfl⟩ | ⟨hi, ha, rfl⟩
    · simp [show s.initd = true from hi]
    · simp [show s.initd = false from hi, show s.pins.chanAvail = false from ha]
    · simp [show s.initd = false from hi, show s.pins.chanAvail = true from ha]
  | write =>
    rcases execWrite_eq_next ht with ⟨hi, rfl⟩ | ⟨hi, rfl⟩
    · simp [show s.initd = false from hi]
    · simp [show s.initd = true from hi]
  | setPix idx r g b =>
    rcases execSetPix_eq_next ht with ⟨hi, rfl⟩ | ⟨hi, rfl⟩
    · simp [show s.cfg.n ≤ idx.toNat from hi]
    · simp [show idx.toNat < s.cfg.n from hi]
  | clear => obtain ⟨-, ⟨-, rfl⟩ | ⟨-, rfl⟩⟩ := execClear_eq_next ht <;> simp
  | get idx =>
    rcases execGet_eq_next ht with ⟨hi, rfl⟩ | ⟨hi, rfl⟩
    · simp [show s.cfg.n ≤ idx.toNat from hi]
    · simp [show idx.toNat < s.cfg.n from hi]
  | stat =>
    cases execStat_eq_next ht
    simp

theorem sameFlags_clrArm {s t : State} (h : clrArm s = .next t) : SameFlags s t := by
  obtain ⟨-, ⟨-, rfl⟩ | ⟨-, rfl⟩⟩ := clrArm_eq_next h <;> exact .rfl s

theorem sameFlags_gapArm (s : State) : SameFlags s (gapArm s) := by
  rcases gapArm_cases s with ⟨-, he⟩ | ⟨-, he⟩ <;> rw [he] <;> exact .rfl s

theorem EdgeCase.flags {s t : State} (h : EdgeCase s t) (hr : s.pins.rst = false) : FlagsAsCommanded s t := by
  cases h with
  | reset hr' => simp [hr] at hr'
  | command _ hc ht => exact .exec hc ht
  | illegal _ ha hd => exact .illegal ha hd
  | rest _ _ ha => exact .of_not_accepts ha (.rfl s)
  | clr _ hm ht =>
    exact .of_not_accepts (not_accepts_of_mode_ne_idle (by simp [hm]))
      (sameFlags_clrArm (s := clearResponse s) ht)
  | frame _ hm ht =>
    exact .of_not_accepts (not_accepts_of_mode_ne_idle (by simp [hm])) (frameArm_engineOnly ht).1
  | gap _ hm =>
    exact .of_not_accepts (not_accepts_of_mode_ne_idle (by simp [hm])) (sameFlags_gapArm (clearResponse s))

/-- Settles O35: a reset edge clears the flags, and every other case of an edge sets what it names. -/
theorem flagsSetAndKept : Obligations.FlagsSetAndKept := by
  intro s u hstep
  obtain ⟨-, t, ht, rfl⟩ := edgeCase_of_step hstep
  refine ⟨fun hr => ?_, ht.flags⟩
  rw [ht.eq_resetBlock hr]
  exact ⟨rfl, rfl, rfl, rfl, rfl⟩

/-! ### The response -/

/-- A command responds at its accepting edge exactly when it leaves the block in `IDLE` (R96). -/
theorem exec_answers {i : Instr} {s t : State} (hm : s.mode = .idle) (hrv : s.rspv = false)
    (ht : exec i s = .next t) : t.rspv = true ↔ t.mode = .idle := by
  cases i with
  | init => rcases execInit_eq_next ht with ⟨-, rfl⟩ | ⟨-, -, rfl⟩ | ⟨-, -, rfl⟩ <;> simp [hm, hrv]
  | write => rcases execWrite_eq_next ht with ⟨-, rfl⟩ | ⟨-, rfl⟩ <;> simp [hm, hrv]
  | setPix idx r g b => rcases execSetPix_eq_next ht with ⟨-, rfl⟩ | ⟨-, rfl⟩ <;> simp [hm]
  | clear => obtain ⟨-, ⟨-, rfl⟩ | ⟨-, rfl⟩⟩ := execClear_eq_next ht <;> simp [hm, hrv]
  | get idx => rcases execGet_eq_next ht with ⟨-, rfl⟩ | ⟨-, rfl⟩ <;> simp [hm]
  | stat => cases execStat_eq_next ht; simp [hm]

theorem clrArm_answers {s t : State} (hm : s.mode = .clr) (hrv : s.rspv = false) (ht : clrArm s = .next t) :
    t.rspv = true ↔ t.mode = .idle := by
  obtain ⟨-, ⟨-, rfl⟩ | ⟨-, rfl⟩⟩ := clrArm_eq_next ht <;> simp [hm, hrv]

theorem frameArm_answers {s t : State} (hm : s.mode = .frame) (hrv : s.rspv = false)
    (ht : frameArm s = .next t) : t.rspv = true ↔ t.mode = .idle := by
  obtain ⟨-, hr, ht | ht⟩ := frameArm_engineOnly ht <;> simp [hr, hrv, ht, hm]

theorem gapArm_answers {s : State} (hm : s.mode = .gap) (hrv : s.rspv = false) :
    (gapArm s).rspv = true ↔ (gapArm s).mode = .idle := by
  rcases gapArm_cases s with ⟨-, he⟩ | ⟨-, he⟩ <;> simp [he, hm, hrv]

/-- An edge without reset responds exactly when it ends a command, one accepted at it or before it. -/
theorem EdgeCase.answers {s t : State} (h : EdgeCase s t) (hr : s.pins.rst = false) :
    t.rspv = true ↔ t.mode = .idle ∧ (accepts s = true ∨ s.mode ≠ .idle) := by
  cases h with
  | reset hr' => simp [hr] at hr'
  | command _ hc ht =>
    obtain ⟨ha, -⟩ := (commandAt_eq_some_iff _ _).1 hc
    obtain ⟨-, -, hm, -⟩ := (accepts_iff s).1 ha
    simp [exec_answers (s := clearResponse s) hm rfl ht, ha]
  | illegal _ ha hd =>
    obtain ⟨-, -, hm, -⟩ := (accepts_iff s).1 ha
    simp [ha, hm]
  | rest _ hm ha => simp [ha, hm]
  | clr _ hm ht => simp [clrArm_answers (s := clearResponse s) hm rfl ht, hm]
  | frame _ hm ht => simp [frameArm_answers (s := clearResponse s) hm rfl ht, hm]
  | gap _ hm => simp [gapArm_answers (s := clearResponse s) hm rfl, hm]

/-- Settles O37: the edge answers case by case, and the invariant clears the register without a response. -/
theorem oneResponsePerCommand : Obligations.OneResponsePerCommand := by
  intro s u h hstep
  obtain ⟨-, -, -, -, -, ⟨-, hrd⟩, -⟩ := stepKeepsInvariant s u h hstep
  obtain ⟨-, t, ht, rfl⟩ := edgeCase_of_step hstep
  refine ⟨fun hr => ?_, ht.answers, hrd⟩
  rw [ht.eq_resetBlock hr]
  rfl

/-! ### `STAT` -/

/-- The low byte of a response is `d0` (R96). -/
theorem getLsbD_rspWord (code d2 d1 d0 : Byte) {k : Nat} (hk : k < 8) :
    (rspWord code d2 d1 d0).getLsbD k = d0.getLsbD k := by
  rw [rspWord, BitVec.getLsbD_append, if_pos hk]

/-- `FATAL` is bit 1 of `STATUS` (R34). -/
theorem getLsbD_status_fatal (s : State) : (status s).getLsbD 1 = s.fatal := by
  simp only [status, BitVec.getLsbD_append, BitVec.getLsbD_ofBool]
  simp

/-- `BUSY` is bit 5 of `STATUS` (R34). -/
theorem getLsbD_status_busy (s : State) : (status s).getLsbD 5 = busy s := by
  simp only [status, BitVec.getLsbD_append, BitVec.getLsbD_ofBool]
  simp

/-- Settles O19: a command is accepted only with `FATAL` = 0 in `IDLE`, and that is the `STATUS` it reads. -/
theorem statNeverShowsBusyOrFatal : Obligations.StatNeverShowsBusyOrFatal := by
  intro s hv hc
  obtain ⟨ha, -⟩ := (commandAt_eq_some_iff _ _).1 hc
  obtain ⟨-, -, hm, hf⟩ := (accepts_iff s).1 ha
  refine ⟨_, step_of_commandAt hv hc rfl, ?_, ?_⟩
  · rw [afterEdge_rspd, respond_rspd, getLsbD_rspWord _ _ _ _ (by decide), getLsbD_status_fatal]
    exact hf
  · rw [afterEdge_rspd, respond_rspd, getLsbD_rspWord _ _ _ _ (by decide), getLsbD_status_busy]
    simp [busy, hm]

end Sys2Proof.Machine
end

section
/-! The canonical store as data: what it lists is what it reads (10_state.md R21; log entry 5). -/

namespace Sys2Proof.Machine

/-- A canonical store lists exactly the addresses that do not read 0, with what they read. -/
theorem mem_iff_readByte {m : Memory} (h : m.wf) (c : Host.Cell) :
    c ∈ m ↔ c.2 ≠ 0 ∧ readByte m c.1 = c.2 := by
  induction m with
  | nil => simpa using fun hc => Ne.symm hc
  | cons d m ih =>
    obtain ⟨hlt, hp⟩ := List.pairwise_cons.1 h.1
    have ih := ih ⟨hp, fun e he => h.2 e (List.mem_cons_of_mem _ he)⟩
    rw [List.mem_cons, readByte_cons d.1 d.2 m c.1]
    split
    · next hcd =>
      have hnot : c ∉ m := fun hc => (hlt c hc).ne' hcd
      rw [or_iff_left hnot, Prod.ext_iff]
      exact ⟨fun ⟨_, he⟩ => ⟨by rw [he]; exact h.2 d List.mem_cons_self, he.symm⟩,
        fun ⟨_, he⟩ => ⟨hcd, he.symm⟩⟩
    · next hcd => rw [or_iff_right (fun he => hcd (congrArg Prod.fst he)), ih]

/-- Settles O21: stores that read alike list the same entries, and there is one rising order of them. -/
theorem canonicalStoreExtensional : Obligations.CanonicalStoreExtensional := by
  intro m m' h h' hread
  have hirrefl : Std.Irrefl fun a b : Host.Cell => a.1 < b.1 := ⟨fun a => lt_irrefl a.1⟩
  have hantisymm : Std.Antisymm fun a b : Host.Cell => a.1 < b.1 := ⟨fun _ _ hab hba => absurd hab hba.asymm⟩
  refine h.1.eq_of_mem_iff h'.1 fun c => ?_
  rw [mem_iff_readByte h, mem_iff_readByte h', hread]

end Sys2Proof.Machine
end

section
/-! The reset state: its table and outputs (10_state.md R42) and the invariants that start there; when the line is
high (R41). -/

namespace Sys2Proof.Machine

theorem isResetState_resetBlock (s : State) : IsResetState (resetBlock s) :=
  ⟨⟨fun _ => rfl, rfl, rfl, rfl, rfl, rfl, rfl⟩, ⟨rfl, rfl, rfl, rfl, rfl, rfl, rfl, rfl, rfl, rfl, rfl⟩,
    ⟨rfl, rfl, rfl, rfl, rfl, rfl, by simp [status, busy]⟩⟩

/-- The chain and the host touch nothing of the reset table. -/
theorem IsResetState.afterEdge {s : State} (h : IsResetState s) (a : Bool) : IsResetState (afterEdge a s) := h

/-- Power-on is a state that a reset edge leaves as it is. -/
theorem resetBlock_reset : resetBlock State.reset = State.reset := rfl

/-- Settles O10: both are the reset of the block's tuple. -/
theorem resetState : Obligations.ResetState := by
  refine ⟨resetBlock_reset ▸ isResetState_resetBlock _, fun s hv hr => ?_⟩
  exact ⟨_, step_of_rst hv hr, (isResetState_resetBlock s).afterEdge _⟩

/-- Settles O29: the reset of the block's tuple has the invariant, with the default parameters. -/
theorem resetMeetsInvariant : Obligations.ResetMeetsInvariant := by
  rw [Obligations.ResetMeetsInvariant, ← resetBlock_reset]
  exact inv_resetBlock (by decide) (by rw [ChainOk, State.reset, List.length_map, List.length_range])

/-- At reset no frame is being sent. -/
theorem reset_mode_ne_frame : State.reset.mode ≠ .frame := by decide

/-- Settles O33: at reset no frame is in progress and the wire is undriven and unobserved. -/
theorem resetInStep : Obligations.ResetInStep := by
  refine ⟨fun hm => absurd hm reset_mode_ne_frame, fun hm => absurd hm reset_mode_ne_frame, ?_, ?_⟩
  · have hundriven : State.reset.initd = false := rfl
    exact ⟨fun _ => ⟨rfl, rfl, rfl, rfl⟩, by simp [hundriven], by simp [hundriven], by simp [hundriven],
      (nomatch ·), fun _ => rfl⟩
  · have hstill : State.reset.shifting = false := rfl
    exact ⟨by simp [hstill], by simp [hstill]⟩

/-! ### The line -/

theorem line_eq_h_iff (s : State) : line s = .h ↔ s.initd = true ∧ dout s = true := by
  unfold line doutEn
  split_ifs <;> simp_all

/-- Settles O41: a high line needs a driven wire and a window on it, and the engine rests outside `FRAME`. -/
theorem lineHighOnlyInFrame : Obligations.LineHighOnlyInFrame := by
  intro s h hline
  obtain ⟨hi, hdout⟩ := (line_eq_h_iff s).1 hline
  obtain ⟨hs, -⟩ := Bool.and_eq_true_iff.1 hdout
  obtain ⟨-, -, ⟨hrest, -⟩, -⟩ := h
  refine ⟨by_contra fun hm => ?_, hi, hs⟩
  obtain ⟨-, hoff⟩ := hrest hm
  simp [hoff] at hs

end Sys2Proof.Machine
end

section
/-! Who writes the pixel store (20_memory.md R61; 40_pixel_store_ops.md R136): the commands, the arms and the edge,
each by the store it leaves. -/

namespace Sys2Proof.Machine

/-! ### One cell -/

/-- A pixel write leaves every byte outside its cell. -/
theorem readByte_writePixel_outside {m : Memory} (h : m.wf) {i a : Nat} (ha : OutsideCell i a) (p : Pixel) :
    readByte (writePixel m i p) a = readByte m a := by
  rw [readByte_writePixel h]
  exact (if_neg (ha .red)).trans ((if_neg (ha .green)).trans (if_neg (ha .blue)))

/-- A byte that a pixel write changes is of the written cell. -/
theorem not_outsideCell_of_written {m m' : Memory} (h : m.wf) {i a : Nat} {p : Pixel}
    (hm : m' = writePixel m i p) (hne : readByte m' a ≠ readByte m a) : ¬ OutsideCell i a := by
  intro ha
  exact hne (hm ▸ readByte_writePixel_outside h ha p)

/-! ### The commands -/

/-- What a command does to the store: only `SETPIX` and `CLEAR` write, each its one cell. -/
theorem exec_pix {i : Instr} {s t : State} (h : exec i s = .next t) :
    t.pix = s.pix ∨
    (∃ idx r g b, i = .setPix idx r g b ∧ idx.toNat < s.cfg.n ∧ t.pix = writePixel s.pix idx.toNat ⟨r, g, b⟩) ∨
    (i = .clear ∧ t.pix = writePixel s.pix 0 .black) := by
  cases i with
  | init => rcases execInit_eq_next h with ⟨-, rfl⟩ | ⟨-, -, rfl⟩ | ⟨-, -, rfl⟩ <;> simp
  | write => rcases execWrite_eq_next h with ⟨-, rfl⟩ | ⟨-, rfl⟩ <;> simp
  | setPix idx r g b =>
    rcases execSetPix_eq_next h with ⟨-, rfl⟩ | ⟨hi, rfl⟩
    · exact .inl (raiseFault_pix _ s)
    · exact .inr (.inl ⟨idx, r, g, b, rfl, hi, rfl⟩)
  | clear => obtain ⟨-, ⟨-, rfl⟩ | ⟨-, rfl⟩⟩ := execClear_eq_next h <;> exact .inr (.inr ⟨rfl, rfl⟩)
  | get idx => rcases execGet_eq_next h with ⟨-, rfl⟩ | ⟨-, rfl⟩ <;> simp
  | stat => cases execStat_eq_next h; simp

/-! ### The arms -/

theorem clrArm_pix {s t : State} (h : clrArm s = .next t) : t.pix = writePixel s.pix s.clrIdx .black := by
  obtain ⟨-, ⟨-, rfl⟩ | ⟨-, rfl⟩⟩ := clrArm_eq_next h <;> rfl

@[simp] theorem serializerAdvance_pix (s : State) : (serializerAdvance s).pix = s.pix := by
  unfold serializerAdvance
  split_ifs <;> rfl

@[simp] theorem serializerLoad_pix (s : State) : (serializerLoad s).pix = s.pix := by
  unfold serializerLoad
  split <;> rfl

@[simp] theorem converterNext_pix (s : State) : (converterNext s).pix = s.pix := by
  unfold converterNext
  split <;> rfl

/-- The converter reads the store and writes the queue (R165). -/
theorem converterPush_pix {s t : State} (h : converterPush s = .next t) : t.pix = s.pix := by
  rw [converterPush_eq] at h
  cases h
  split <;> simp

@[simp] theorem frameEndCheck_pix (s : State) : (frameEndCheck s).pix = s.pix := by
  unfold frameEndCheck
  split <;> rfl

theorem frameArm_pix {s t : State} (h : frameArm s = .next t) : t.pix = s.pix := by
  obtain ⟨u, hu, hf⟩ := frameArm_eq s
  rw [hf] at h
  cases h
  simp [converterPush_pix hu]

@[simp] theorem gapArm_pix (s : State) : (gapArm s).pix = s.pix := by
  rcases gapArm_cases s with ⟨-, he⟩ | ⟨-, he⟩ <;> simp [he]

/-! ### The edge -/

/-- What an edge does to the store: without a reset it writes at most one pixel, in the `CLR` arm or for an
accepted `SETPIX` or `CLEAR`. -/
theorem EdgeCase.pix {s t : State} (h : EdgeCase s t) :
    s.pins.rst = true ∨
    t.pix = s.pix ∨
    (s.mode = .clr ∧ t.pix = writePixel s.pix s.clrIdx .black) ∨
    (∃ idx r g b, commandAt s = some (.setPix idx r g b) ∧ idx.toNat < s.cfg.n ∧
      t.pix = writePixel s.pix idx.toNat ⟨r, g, b⟩) ∨
    (commandAt s = some .clear ∧ t.pix = writePixel s.pix 0 .black) := by
  cases h with
  | reset hr => exact .inl hr
  | command _ hc ht =>
    rcases exec_pix ht with hsame | ⟨idx, r, g, b, rfl, hi, hset⟩ | ⟨rfl, hclear⟩
    · exact .inr (.inl hsame)
    · exact .inr (.inr (.inr (.inl ⟨idx, r, g, b, hc, hi, hset⟩)))
    · exact .inr (.inr (.inr (.inr ⟨hc, hclear⟩)))
  | illegal => simp
  | rest => simp
  | clr _ hm ht => exact .inr (.inr (.inl ⟨hm, clrArm_pix (s := clearResponse s) ht⟩))
  | frame _ _ ht => exact .inr (.inl (frameArm_pix (s := clearResponse s) ht))
  | gap => simp

/-- Settles O36: an edge without reset writes at most one pixel, and a changed byte is of the written cell. -/
theorem storeWriters : Obligations.StoreWriters := by
  intro s u a hwf hstep hne
  obtain ⟨-, t, ht, rfl⟩ := edgeCase_of_step hstep
  rw [afterEdge_pix] at hne
  rcases ht.pix with hr | hsame | ⟨hm, hclr⟩ | ⟨idx, r, g, b, hc, hi, hset⟩ | ⟨hc, hclear⟩
  · exact .inl hr
  · exact absurd (by rw [hsame]) hne
  · exact .inr (.inl ⟨hm, not_outsideCell_of_written hwf hclr hne⟩)
  · exact .inr (.inr (.inl ⟨idx, r, g, b, hc, hi, not_outsideCell_of_written hwf hset hne⟩))
  · exact .inr (.inr (.inr ⟨hc, not_outsideCell_of_written hwf hclear hne⟩))

end Sys2Proof.Machine
end

section
/-! The decoder and the encoder are inverse to each other (30_encoding.md R90 to R95): the legal words are the words
of the commands, and the opcode map, the illegal words and the counts of R95 follow from that. -/

namespace Sys2Proof

/-! ### The reserved fields as bytes and as a number -/

/-- The operand field of `F0` is zero exactly when its four bytes are (R91). -/
theorem reservedF0_eq_zero_iff (w : Word) :
    w.extractLsb' 0 32 = 0#32 ↔ fieldIdx w = 0#8 ∧ fieldR w = 0#8 ∧ fieldG w = 0#8 ∧ fieldB w = 0#8 := by
  simp only [fieldIdx, fieldR, fieldG, fieldB, ← BitVec.toNat_inj, BitVec.extractLsb'_toNat,
    Nat.shiftRight_eq_div_pow, BitVec.toNat_ofNat]
  omega

/-- The reserved field of `FI` is zero exactly when its three bytes are (R91). -/
theorem reservedFI_eq_zero_iff (w : Word) :
    w.extractLsb' 0 24 = 0#24 ↔ fieldR w = 0#8 ∧ fieldG w = 0#8 ∧ fieldB w = 0#8 := by
  simp only [fieldR, fieldG, fieldB, ← BitVec.toNat_inj, BitVec.extractLsb'_toNat,
    Nat.shiftRight_eq_div_pow, BitVec.toNat_ofNat]
  omega

/-- A field of `len` low bits, read as a number. -/
theorem extractLsb'_zero_eq_zero_iff (w : Word) (len : Nat) :
    w.extractLsb' 0 len = 0#len ↔ w.toNat % 2 ^ len = 0 := by
  simp [← BitVec.toNat_inj]

/-! ### The two formats with reserved fields -/

theorem formF0_eq_ok_iff (w : Word) (i j : Instr) :
    formF0 w i = .ok j ↔ w.extractLsb' 0 32 = 0#32 ∧ i = j := by
  unfold formF0
  split <;> simp [*]

theorem formFI_eq_ok_iff (w : Word) (i j : Instr) :
    formFI w i = .ok j ↔ w.extractLsb' 0 24 = 0#24 ∧ i = j := by
  unfold formFI
  split <;> simp [*]

theorem formF0_fails_iff (w : Word) (i : Instr) : (∃ e, formF0 w i = .error e) ↔ w.toNat % 2 ^ 32 ≠ 0 := by
  rw [Ne, ← extractLsb'_zero_eq_zero_iff]
  unfold formF0
  split <;> simp [*]

theorem formFI_fails_iff (w : Word) (i : Instr) : (∃ e, formFI w i = .error e) ↔ w.toNat % 2 ^ 24 ≠ 0 := by
  rw [Ne, ← extractLsb'_zero_eq_zero_iff]
  unfold formFI
  split <;> simp [*]

/-! ### The round trip -/

/-- A word read with zero operands is the word of its opcode alone. -/
theorem encode_of_formF0 {w : Word} {i j : Instr} (hj : encode j = assembleWord (fieldOp w) 0 0 0 0)
    (h : formF0 w j = .ok i) : encode i = w := by
  obtain ⟨h0, rfl⟩ := (formF0_eq_ok_iff _ _ _).1 h
  obtain ⟨hi, hr, hg, hb⟩ := (reservedF0_eq_zero_iff w).1 h0
  simpa [hj, hi, hr, hg, hb] using assembleWord_fields w

/-- A word read with an index alone is the word of its opcode and that index. -/
theorem encode_of_formFI {w : Word} {i j : Instr}
    (hj : encode j = assembleWord (fieldOp w) (fieldIdx w) 0 0 0) (h : formFI w j = .ok i) : encode i = w := by
  obtain ⟨h0, rfl⟩ := (formFI_eq_ok_iff _ _ _).1 h
  obtain ⟨hr, hg, hb⟩ := (reservedFI_eq_zero_iff w).1 h0
  simpa [hj, hr, hg, hb] using assembleWord_fields w

theorem decode_encode (i : Instr) : decode (encode i) = .ok i := by
  cases i with
  | init => decide
  | write => decide
  | setPix idx r g b =>
    simp [encode, decode, fieldOp_assembleWord, fieldIdx_assembleWord, fieldR_assembleWord,
      fieldG_assembleWord, fieldB_assembleWord]
  | clear => decide
  | get idx =>
    simp [encode, decode, formFI, reservedFI_eq_zero_iff, fieldOp_assembleWord, fieldIdx_assembleWord,
      fieldR_assembleWord, fieldG_assembleWord, fieldB_assembleWord]
  | stat => decide

theorem encode_of_decode {w : Word} {i : Instr} (h : decode w = .ok i) : encode i = w := by
  unfold decode at h
  split_ifs at h with h1 h2 h3 h4 h5 h6
  · exact encode_of_formF0 (h1 ▸ rfl) h
  · exact encode_of_formF0 (h2 ▸ rfl) h
  · cases h
    simpa [encode, h3] using assembleWord_fields w
  · exact encode_of_formF0 (h4 ▸ rfl) h
  · exact encode_of_formFI (h5 ▸ rfl) h
  · exact encode_of_formF0 (h6 ▸ rfl) h

/-- The legal words are the words of the commands. -/
theorem decode_eq_ok_iff (w : Word) (i : Instr) : decode w = .ok i ↔ encode i = w :=
  ⟨encode_of_decode, fun h => h ▸ decode_encode i⟩

theorem encode_injective : Function.Injective encode := fun i _ h =>
  Except.ok.inj ((decode_encode i).symm.trans ((decode_eq_ok_iff _ _).2 h.symm))

/-- Settles O2: the fields read back from an assembled word are those it was assembled from. -/
theorem decodeOfEncode : Obligations.DecodeOfEncode := decode_encode

/-- Settles O3: a word is the word of its fields, and what a format does not read it asks to be zero. -/
theorem encodeOfDecode : Obligations.EncodeOfDecode := fun _ _ => encode_of_decode

/-- Settles O1: ten closed words, decoded. -/
theorem writtenWordsDecode : Obligations.WrittenWordsDecode := by
  unfold Obligations.WrittenWordsDecode
  decide

/-! ### The opcode map -/

theorem selects_encode_iff (i : Instr) : Laws.OwnRow.Statement i := by
  cases i with
  | init => exact Laws.OwnRow.init
  | write => exact Laws.OwnRow.write
  | setPix idx r g b => exact Laws.OwnRow.setPix idx r g b
  | clear => exact Laws.OwnRow.clear
  | get idx => exact Laws.OwnRow.get idx
  | stat => exact Laws.OwnRow.stat

theorem exists_row (i : Instr) : ∃ row ∈ opcodeMap, row.mnemonic = i.mnemonic := by
  cases i <;> simp [opcodeMap, Instr.mnemonic]

/-- The rows are told apart by their mnemonics. -/
theorem row_eq_of_mnemonic : ∀ row ∈ opcodeMap, ∀ row' ∈ opcodeMap,
    row.mnemonic = row'.mnemonic → row = row' := by decide

theorem and_byteMask (x : Byte) : x &&& 0xFF#8 = x := BitVec.and_allOnes

/-- A row selects no word but those of its commands. -/
theorem exists_encode_of_selects {row : OpRow} (hrow : row ∈ opcodeMap) {w : Word}
    (h : row.selects w = true) : ∃ i, encode i = w := by
  rw [← assembleWord_fields w] at h ⊢
  generalize fieldOp w = op, fieldIdx w = idx, fieldR w = r, fieldG w = g, fieldB w = b at h ⊢
  rw [opcodeMap_bytes] at hrow
  simp only [List.mem_cons, List.not_mem_nil, or_false] at hrow
  rcases hrow with rfl | rfl | rfl | rfl | rfl | rfl <;>
    obtain ⟨rfl, rfl, rfl, rfl, rfl⟩ := by simpa [selects_assembleWord, and_byteMask] using h
  · exact ⟨.init, rfl⟩
  · exact ⟨.write, rfl⟩
  · exact ⟨.setPix idx r g b, rfl⟩
  · exact ⟨.clear, rfl⟩
  · exact ⟨.get idx, rfl⟩
  · exact ⟨.stat, rfl⟩

/-- A row selects exactly the words of the commands with its mnemonic (R93). -/
theorem selects_iff {row : OpRow} (hrow : row ∈ opcodeMap) (w : Word) :
    row.selects w = true ↔ ∃ i, encode i = w ∧ i.mnemonic = row.mnemonic := by
  refine ⟨fun h => ?_, fun ⟨i, hi, hm⟩ => hi ▸ (selects_encode_iff i row hrow).2 hm.symm⟩
  obtain ⟨i, rfl⟩ := exists_encode_of_selects hrow h
  exact ⟨i, rfl, ((selects_encode_iff i row hrow).1 h).symm⟩

/-- Settles O4: a selected word is the word of one command, whose mnemonic names one row. -/
theorem opcodeMapDecides : Obligations.OpcodeMapDecides := by
  refine ⟨fun row hrow w h => ?_, fun row hrow row' hrow' w h h' => ?_⟩
  · obtain ⟨i, rfl, hm⟩ := (selects_iff hrow w).1 h
    exact ⟨i, decode_encode i, hm, rfl⟩
  · obtain ⟨i, rfl, hm⟩ := (selects_iff hrow w).1 h
    have hm' := (selects_encode_iff i row' hrow').1 h'
    exact row_eq_of_mnemonic row hrow row' hrow' (hm.symm.trans hm'.symm)

/-! ### The illegal words -/

theorem decode_fails_iff (w : Word) : (∃ e, decode w = .error e) ↔ ¬ ∃ i, decode w = .ok i := by
  cases decode w <;> simp

/-- R94 by the rows of the map. -/
theorem decode_fails_iff_no_row (w : Word) :
    (∃ e, decode w = .error e) ↔ ∀ row ∈ opcodeMap, row.selects w = false := by
  simp only [decode_fails_iff, decode_eq_ok_iff, ← Bool.not_eq_true]
  refine ⟨fun h row hrow hs => h (exists_encode_of_selects hrow hs), fun h ⟨i, hi⟩ => ?_⟩
  obtain ⟨row, hrow, hm⟩ := exists_row i
  exact h row hrow ((selects_iff hrow w).2 ⟨i, hi, hm.symm⟩)

/-- R94 by the opcode and the reserved bits. -/
theorem decode_fails_iff_fields (w : Word) : (∃ e, decode w = .error e) ↔
    (fieldOp w = 0x00 ∨ 0x07 ≤ (fieldOp w).toNat) ∨
    ((fieldOp w = 0x01 ∨ fieldOp w = 0x02 ∨ fieldOp w = 0x04 ∨ fieldOp w = 0x06) ∧
      w.toNat % 2 ^ 32 ≠ 0) ∨
    (fieldOp w = 0x05 ∧ w.toNat % 2 ^ 24 ≠ 0) := by
  unfold decode
  split_ifs with h1 h2 h3 h4 h5 h6
  · simp [formF0_fails_iff, h1]
  · simp [formF0_fails_iff, h2]
  · simp [h3]
  · simp [formF0_fails_iff, h4]
  · simp [formFI_fails_iff, h5]
  · simp [formF0_fails_iff, h6]
  · refine ⟨fun _ => .inl ?_, fun _ => ⟨_, rfl⟩⟩
    bv_omega

end Sys2Proof
end

section
/-! How many words each outcome of the decoder has (30_encoding.md R95): the words of a command form are as many as
its operands, and the illegal ones are the rest. -/

namespace Sys2Proof

/-- The commands as the choice of a row and its operands: four rows have none. -/
def instrEquiv : Instr ≃ Fin 4 ⊕ Byte ⊕ Byte × Byte × Byte × Byte where
  toFun
    | .init => .inl 0
    | .write => .inl 1
    | .clear => .inl 2
    | .stat => .inl 3
    | .get idx => .inr (.inl idx)
    | .setPix idx r g b => .inr (.inr (idx, r, g, b))
  invFun
    | .inl 0 => .init
    | .inl 1 => .write
    | .inl 2 => .clear
    | .inl 3 => .stat
    | .inr (.inl idx) => .get idx
    | .inr (.inr (idx, r, g, b)) => .setPix idx r g b
  left_inv i := by cases i <;> rfl
  right_inv
    | .inl k => by fin_cases k <;> rfl
    | .inr (.inl _) | .inr (.inr _) => rfl

theorem card_bitVec (n : Nat) : Nat.card (BitVec n) = 2 ^ n :=
  (Nat.card_congr BitVec.equivFin.toEquiv).trans (Nat.card_fin _)

/-- A `SETPIX` has four byte operands. -/
theorem card_fourBytes : Nat.card (Byte × Byte × Byte × Byte) = 2 ^ 32 := by
  simp only [Nat.card_prod, card_bitVec]
  norm_num

theorem card_instr : Nat.card Instr = 2 ^ 32 + 260 := by
  rw [Nat.card_congr instrEquiv, Nat.card_sum, Nat.card_sum, card_fourBytes, card_bitVec, Nat.card_fin]
  norm_num

/-- The words of a form are counted by its operands, two commands never having the same word. -/
theorem card_decodes {α : Type} {form : α → Instr} (hform : Function.Injective form) :
    Nat.card { w : Word // ∃ a, decode w = .ok (form a) } = Nat.card α := by
  refine (Nat.card_eq_of_bijective (fun a => ⟨encode (form a), a, decode_encode _⟩)
    ⟨fun a b h => ?_, ?_⟩).symm
  · exact hform (encode_injective (Subtype.ext_iff.1 h))
  · rintro ⟨w, a, ha⟩
    exact ⟨a, Subtype.ext (encode_of_decode ha)⟩

/-- A command is the meaning of one word. -/
theorem card_decodes_one (i : Instr) : Nat.card { w : Word // decode w = .ok i } = 1 := by
  simpa using card_decodes (form := fun _ : Unit => i) fun _ _ _ => rfl

theorem card_decodes_setPix :
    Nat.card { w : Word // ∃ idx r g b, decode w = .ok (.setPix idx r g b) } = 2 ^ 32 := by
  rw [← card_fourBytes, ← card_decodes (form := fun p : Byte × Byte × Byte × Byte =>
    .setPix p.1 p.2.1 p.2.2.1 p.2.2.2) fun p q h => by simpa [Prod.ext_iff] using h]
  simp only [Prod.exists]

theorem card_decodes_get : Nat.card { w : Word // ∃ idx, decode w = .ok (.get idx) } = 256 :=
  (card_decodes fun _ _ => Instr.get.inj).trans (card_bitVec 8)

/-- Every word is the word of a command or illegal. -/
theorem card_illegal :
    Nat.card { w : Word // ∃ e, decode w = .error e } = 2 ^ 40 - 2 ^ 32 - 260 := by
  classical
  have hall := Nat.card_congr (Equiv.sumCompl fun w : Word => ∃ i, decode w = .ok i)
  have hlegal : Nat.card { w : Word // ∃ i, decode w = .ok i } = 2 ^ 32 + 260 :=
    (card_decodes Function.injective_id).trans card_instr
  rw [Nat.card_sum, hlegal, card_bitVec] at hall
  simp only [decode_fails_iff]
  omega

/-- Settles O6: each outcome has as many words as its form has operands, and the illegal ones are the rest. -/
theorem decodeOutcomeCounts : Obligations.DecodeOutcomeCounts :=
  ⟨card_decodes_one _, card_decodes_one _, card_decodes_setPix, card_decodes_one _, card_decodes_get,
    card_decodes_one _, card_illegal⟩

end Sys2Proof
end

section
/-! The word of a program line (30_encoding.md R100, R101), what the host offers next (R102), and what an accepted
illegal word does (R94). -/

namespace Sys2Proof.Machine

/-! ### The assembler -/

theorem asmWord_of_wf {a : Asm} {i : Instr} (hw : a.wf = true) (ha : asmInstr a = some i) :
    asmWord a = some (encode i) := by
  simp [asmWord, hw, ha]

/-- A line that stands for a command has no word exactly when an operand is out of range (R100). -/
theorem asmWord_eq_none_iff {a : Asm} (ha : (asmInstr a).isSome = true) : asmWord a = none ↔ a.wf = false := by
  obtain ⟨i, hi⟩ := Option.isSome_iff_exists.1 ha
  simp [asmWord, hi]

/-- A directive has no word (R101). -/
theorem asmWord_of_directive {a : Asm} (ha : asmInstr a = none) : asmWord a = none := by
  simp [asmWord, ha]

/-- A byte operand is in range and is itself modulo its width. -/
theorem ofNat_toNat_byte (x : Byte) : BitVec.ofNat 8 x.toNat = x := by simp

/-- The number `0xRRGGBB` of three bytes has 24 bits and gives the bytes back (R101). -/
theorem rgb_bytes (r g b : Byte) :
    let v := 65536 * r.toNat + 256 * g.toNat + b.toNat
    v < 16777216 ∧ v / 65536 = r.toNat ∧ v / 256 % 256 = g.toNat ∧ v % 256 = b.toNat := by
  have hr := r.isLt
  have hg := g.isLt
  have hb := b.isLt
  simp only
  omega

theorem asmWord_setRgb (i r g b : Byte) :
    asmWord (.setRgb i.toNat (65536 * r.toNat + 256 * g.toNat + b.toNat)) = some (encode (.setPix i r g b)) := by
  obtain ⟨hlt, hr, hg, hb⟩ := rgb_bytes r g b
  refine asmWord_of_wf (decide_eq_true ⟨i.isLt, hlt⟩) ?_
  simp only [asmInstr, hr, hg, hb, ofNat_toNat_byte]

/-- Settles O7: a line whose operands pass the check has the word of the one command it stands for. -/
theorem assemblerExpands : Obligations.AssemblerExpands := by
  refine ⟨by decide, fun i r g b => ⟨?_, asmWord_setRgb i r g b, ?_, ?_, ?_, ?_⟩, fun i r g b => ?_,
    fun i v => ?_, fun i => ⟨?_, ?_, ?_, ?_⟩, fun n v => ⟨?_, ?_, ?_, ?_⟩⟩
  · exact asmWord_of_wf (decide_eq_true ⟨i.isLt, r.isLt, g.isLt, b.isLt⟩) (by simp [asmInstr])
  iterate 4 exact asmWord_of_wf (decide_eq_true i.isLt) (by simp [asmInstr])
  · rw [asmWord_eq_none_iff rfl, Asm.wf, decide_eq_false_iff_not]
    omega
  · rw [asmWord_eq_none_iff rfl, Asm.wf, decide_eq_false_iff_not]
    omega
  iterate 4 exact (asmWord_eq_none_iff rfl).trans (by simp [Asm.wf])
  iterate 4 exact asmWord_of_directive rfl

/-! ### The host -/

/-- What a host that takes its next item drives. -/
def nextDrive (s : State) : Drive := driveNext (cmdReady s) (s.mode = .idle) s.pins.chanAvail s.script

/-- A host without an offer, or whose offer the edge accepted, takes its next item (R102). -/
theorem afterEdge_takes {accepted : Bool} {s : State} (h : s.hold = false ∨ accepted = true) :
    (afterEdge accepted s).pins.cmdValid = (nextDrive s).pins.cmdValid ∧
    (afterEdge accepted s).pins.cmdData = (nextDrive s).pins.cmdData ∧
    (afterEdge accepted s).hold = (nextDrive s).hold ∧ (afterEdge accepted s).script = (nextDrive s).rest := by
  rw [afterEdge, hostAdvance_takes (s := observePeriod s) h]
  exact ⟨rfl, rfl, rfl, rfl⟩

theorem cmdReady_afterEdge (accepted : Bool) (s : State) : cmdReady (afterEdge accepted s) = cmdReady s := rfl

/-- Settles O54: a host without an offer takes its next item, and for an offer `cmd_ready` decides. -/
theorem hostOffersWhenReady : Obligations.HostOffersWhenReady := by
  intro s u hstep hfree
  obtain ⟨-, t, ht, rfl⟩ := step_eq_next hstep
  obtain ⟨-, -, hhold, hscript, -⟩ := clockEdge_around ht
  rw [← hhold] at hfree
  rw [← hscript, cmdReady_afterEdge]
  obtain ⟨hvalid, hdata, hholds, hrest⟩ := afterEdge_takes hfree
  rw [hvalid, hdata, hholds, hrest, nextDrive]
  refine ⟨fun w rest hs => ?_, fun hs => ?_⟩ <;> rw [hs]
  · refine ⟨fun hr => ?_, fun hr => ?_⟩ <;> rw [hr]
    · exact ⟨rfl, rfl, rfl, rfl⟩
    · exact ⟨rfl, rfl, rfl⟩
  · exact ⟨rfl, rfl, rfl⟩

/-! ### An accepted illegal word -/

theorem illegalAt_iff (s : State) :
    illegalAt s = true ↔ accepts s = true ∧ ∃ e, decode s.pins.cmdData = .error e := by
  unfold illegalAt
  cases decode s.pins.cmdData <;> simp

theorem step_of_illegalAt {s : State} (hv : s.cfg.Valid) (h : illegalAt s = true) :
    step s = .next (afterEdge true (raiseFault .illegal (clearResponse s))) := by
  obtain ⟨ha, e, hd⟩ := (illegalAt_iff s).1 h
  rw [← ha]
  refine step_of_clockEdge hv ?_
  rw [clockEdge_of_accepts ha, execute, hd]

/-- Settles O5: the illegal words by the map and by their fields, and `ERR_ILLEGAL` at the accepting edge. -/
theorem illegalWordFaults : Obligations.IllegalWordFaults :=
  ⟨decode_fails_iff_no_row, decode_fails_iff_fields, fun _ => step_of_illegalAt⟩

end Sys2Proof.Machine
end

section
/-! The form of a response (30_encoding.md R97, R98): what each command, arm and edge can answer. -/

namespace Sys2Proof.Machine

/-- A code of R97, and data only with the code `OK` (R98). -/
def CodedResponse (x : RspWord) : Prop :=
  (x.extractLsb' 24 8).toNat ≤ 5 ∧ (x.extractLsb' 24 8 ≠ 0#8 → x.extractLsb' 0 24 = 0#24)

/-- The high byte of a response is its code (R96). -/
theorem code_rspWord (code d2 d1 d0 : Byte) : (rspWord code d2 d1 d0).extractLsb' 24 8 = code := by
  refine BitVec.eq_of_getLsbD_eq fun k hk => ?_
  simp only [rspWord, BitVec.getLsbD_extractLsb', BitVec.getLsbD_append, hk, decide_true, Bool.true_and]
  rw [if_neg (by omega), if_neg (by omega), if_neg (by omega), show 24 + k - 8 - 8 - 8 = k by omega]

/-- With the code `OK` any data may come. -/
theorem codedResponse_respond_ok (d2 d1 d0 : Byte) (s : State) :
    CodedResponse (respond okCode d2 d1 d0 s).rspd := by
  simp [CodedResponse, code_rspWord, okCode]

theorem codedResponse_respondOk (s : State) : CodedResponse (respondOk s).rspd :=
  codedResponse_respond_ok 0 0 0 s

theorem codedResponse_raiseFault (f : CmdFault) (s : State) : CodedResponse (raiseFault f s).rspd := by
  rw [raiseFault_rspd]
  cases f <;> exact ⟨by decide, fun _ => by decide⟩

/-- A command that answers at its accepting edge answers in that form. -/
theorem exec_codedResponse {i : Instr} {s t : State} (hrv : s.rspv = false) (h : exec i s = .next t)
    (ht : t.rspv = true) : CodedResponse t.rspd := by
  cases i with
  | init =>
    rcases execInit_eq_next h with ⟨-, rfl⟩ | ⟨-, -, rfl⟩ | ⟨-, -, rfl⟩
    · exact codedResponse_raiseFault _ s
    · exact codedResponse_raiseFault _ s
    · simp [hrv] at ht
  | write =>
    rcases execWrite_eq_next h with ⟨-, rfl⟩ | ⟨-, rfl⟩
    · exact codedResponse_raiseFault _ s
    · simp [hrv] at ht
  | setPix idx r g b =>
    rcases execSetPix_eq_next h with ⟨-, rfl⟩ | ⟨-, rfl⟩
    · exact codedResponse_raiseFault _ s
    · exact codedResponse_respondOk _
  | clear =>
    obtain ⟨-, ⟨-, rfl⟩ | ⟨-, rfl⟩⟩ := execClear_eq_next h
    · exact codedResponse_respondOk _
    · simp [hrv] at ht
  | get idx =>
    rcases execGet_eq_next h with ⟨-, rfl⟩ | ⟨-, rfl⟩
    · exact codedResponse_raiseFault _ s
    · exact codedResponse_respond_ok _ _ _ s
  | stat =>
    cases execStat_eq_next h
    exact codedResponse_respond_ok _ _ _ s

theorem clrArm_codedResponse {s t : State} (hrv : s.rspv = false) (h : clrArm s = .next t)
    (ht : t.rspv = true) : CodedResponse t.rspd := by
  obtain ⟨-, ⟨-, rfl⟩ | ⟨-, rfl⟩⟩ := clrArm_eq_next h
  · exact codedResponse_respondOk _
  · simp [hrv] at ht

theorem gapArm_codedResponse {s : State} (hrv : s.rspv = false) (ht : (gapArm s).rspv = true) :
    CodedResponse (gapArm s).rspd := by
  rcases gapArm_cases s with ⟨-, he⟩ | ⟨-, he⟩ <;> rw [he] at ht ⊢
  · exact codedResponse_respondOk _
  · simp [hrv] at ht

theorem EdgeCase.codedResponse {s t : State} (h : EdgeCase s t) (ht : t.rspv = true) :
    CodedResponse t.rspd := by
  cases h with
  | reset => simp at ht
  | command _ _ he => exact exec_codedResponse (s := clearResponse s) rfl he ht
  | illegal => exact codedResponse_raiseFault _ _
  | rest => simp at ht
  | clr _ _ he => exact clrArm_codedResponse (s := clearResponse s) rfl he ht
  | frame _ _ he =>
    obtain ⟨-, hrv, -⟩ := frameArm_engineOnly he
    simp [hrv] at ht
  | gap => exact gapArm_codedResponse (s := clearResponse s) rfl ht

/-- Settles O38: an edge clears the response first, and what answers after that answers `OK` or with a fault. -/
theorem responseCodes : Obligations.ResponseCodes := by
  intro s u hstep hrv
  obtain ⟨-, t, ht, rfl⟩ := edgeCase_of_step hstep
  exact ht.codedResponse hrv

end Sys2Proof.Machine
end

section
/-! The pixel store's commands at their accepting edge (40_pixel_store_ops.md R120 to R125, R130 to R132). -/

namespace Sys2Proof.Machine

/-! ### One equation per outcome -/

/-- R121: an index that is no cell's raises `ERR_INDEX`. -/
theorem exec_setPix_of_le {s : State} {idx : Byte} (h : s.cfg.n ≤ idx.toNat) (r g b : Byte) :
    exec (.setPix idx r g b) s = .next (raiseFault .index s) := by
  rw [exec, execSetPix, withCell_of_le h]

/-- R120: a cell's index stores the pixel and answers `OK`. -/
theorem exec_setPix_of_lt {s : State} {idx : Byte} (h : idx.toNat < s.cfg.n) (r g b : Byte) :
    exec (.setPix idx r g b) s = .next (respondOk { s with pix := writePixel s.pix idx.toNat ⟨r, g, b⟩ }) := by
  rw [exec, execSetPix, withCell_of_lt h, storePixel_of_lt h, onNext_next, pixelOperand]

/-- R121, for `GET`. -/
theorem exec_get_of_le {s : State} {idx : Byte} (h : s.cfg.n ≤ idx.toNat) :
    exec (.get idx) s = .next (raiseFault .index s) := by
  rw [exec, execGet, withCell_of_le h]

/-- R130: a cell's index answers its pixel. -/
theorem exec_get_of_lt {s : State} {idx : Byte} (h : idx.toNat < s.cfg.n) {r g b : Byte}
    (hp : readPixel s.pix idx.toNat = ⟨r, g, b⟩) : exec (.get idx) s = .next (respond okCode r g b s) := by
  rw [exec, execGet, withCell_of_lt h, withPixel_of_lt h, hp]

/-- R125: one cell is done at once, more go on in the `CLR` arm. -/
theorem exec_clear_of_pos {s : State} (h : 0 < s.cfg.n) :
    exec .clear s = .next (if s.cfg.n = 1 then respondOk { s with pix := writePixel s.pix 0 .black }
      else { s with pix := writePixel s.pix 0 .black, mode := .clr, clrIdx := 1 }) := by
  rw [exec, execClear, storePixel_of_lt h, onNext_next]
  split_ifs <;> rfl

/-- A written cell reads as written. -/
theorem readPixel_writePixel_same {m : Memory} (h : m.wf) (i : Nat) (p : Pixel) :
    readPixel (writePixel m i p) i = p := by rw [readPixel_writePixel h, if_pos rfl]

/-! ### The obligations -/

/-- Settles O13: `SETPIX` writes one pixel, which changes the bytes of its cell alone. -/
theorem setPixStoresOnePixel : Obligations.SetPixStoresOnePixel := by
  intro s idx r g b hwf
  refine ⟨fun hi => exec_setPix_of_le hi r g b, fun hi => ?_⟩
  refine ⟨_, exec_setPix_of_lt hi r g b, wf_writePixel hwf _ _, readPixel_writePixel_same hwf _ _,
    fun j hj => ?_, fun a ha => readByte_writePixel_outside hwf ha _⟩
  rw [readPixel_writePixel hwf, if_neg hj]

/-- Settles O14: the two outcomes of the bounds check. -/
theorem getReadsOnePixel : Obligations.GetReadsOnePixel :=
  fun _ _ => ⟨exec_get_of_le, fun hi _ _ _ => exec_get_of_lt hi⟩

/-- Settles O15: `CLEAR` writes black to cell 0, which changes the bytes of that cell alone. -/
theorem clearStarts : Obligations.ClearStarts := by
  intro s hwf hn
  exact ⟨_, exec_clear_of_pos hn, wf_writePixel hwf _ _, readPixel_writePixel_same hwf _ _,
    fun a ha => readByte_writePixel_outside hwf ha _⟩

/-- Settles O20: the step of `SETPIX` leaves the written cell, and the ports do not touch the store. -/
theorem setThenGet : Obligations.SetThenGet := by
  intro s t idx r g b p hwf hi hset hstep hget
  obtain ⟨hv, -⟩ := step_eq_next hstep
  cases hstep.symm.trans (step_of_commandAt hv hset (exec_setPix_of_lt (by exact hi) r g b))
  have hcell : readPixel (writePixel s.pix idx.toNat ⟨r, g, b⟩) idx.toNat = ⟨r, g, b⟩ :=
    readPixel_writePixel_same hwf _ _
  exact ⟨_, step_of_commandAt hv hget (exec_get_of_lt (by exact hi) (by exact hcell)), rfl, rfl⟩

end Sys2Proof.Machine
end

section
/-! `CLEAR` from its acceptance to its response (40_pixel_store_ops.md R125 to R127): cell after cell is written black,
as by `SETPIX i, 0, 0, 0` for every cell in turn. -/

namespace Sys2Proof.Machine

/-! ### The store with its first cells black -/

/-- Black written to the first `k` cells, in turn from cell 0. -/
def blackCells : Nat → Memory → Memory
  | 0, m => m
  | k + 1, m => writePixel (blackCells k m) k .black

theorem wf_blackCells {m : Memory} (h : m.wf) (k : Nat) : (blackCells k m).wf := by
  induction k with
  | zero => exact h
  | succ k ih => exact wf_writePixel ih k _

theorem readPixel_blackCells {m : Memory} (h : m.wf) (k i : Nat) :
    readPixel (blackCells k m) i = if i < k then .black else readPixel m i := by
  induction k with
  | zero => rfl
  | succ k ih =>
    rw [blackCells, readPixel_writePixel (wf_blackCells h k), ih, ← ite_or]
    exact if_congr (by omega) rfl rfl

/-- Past the last cell every pixel reads black. -/
theorem readPixel_past_store {s : State} (h : StoreOk s) {i : Nat} (hi : s.cfg.n ≤ i) :
    readPixel s.pix i = .black := by
  have hz (c : Chan) : readByte s.pix (channelAddr i c) = 0 :=
    readByte_past_store h (by cases c <;> simp only [channelAddr] <;> omega)
  rw [readPixel, hz, hz, hz]
  rfl

/-- R127 (b): the `SETPIX i, 0, 0, 0` in turn write just that, and no flag. -/
theorem setBlack_eq_blackCells {s : State} {k : Nat} (hk : k ≤ s.cfg.n) (hn : s.cfg.n ≤ 256) :
    ∃ v, setBlack k s = .next v ∧ v.cfg = s.cfg ∧ v.pix = blackCells k s.pix ∧ SameFlags s v := by
  induction k with
  | zero => exact ⟨s, rfl, rfl, rfl, .rfl s⟩
  | succ k ih =>
    obtain ⟨v, hv, hcfg, hpix, hflags⟩ := ih (Nat.le_of_succ_le hk)
    refine ⟨respondOk { v with pix := writePixel v.pix k .black }, ?_, hcfg, ?_, hflags⟩
    · rw [setBlack, hv, onNext_next]
      exact exec_setPix_black (by rw [hcfg]; omega) (by rw [hcfg]; exact hn)
    · rw [blackCells, ← hpix]
      rfl

/-! ### One edge of the `CLR` arm -/

/-- What an edge of the `CLR` arm does (R126). -/
structure ClearsCell (s t : State) : Prop where
  cfg : t.cfg = s.cfg
  pix : t.pix = writePixel s.pix s.clrIdx .black
  flags : SameFlags s t
  path : SameDataPath s t
  last : s.clrIdx = s.cfg.n - 1 → t.mode = .idle ∧ t.clrIdx = s.clrIdx ∧ t.rspv = true ∧ t.rspd = 0
  more : s.clrIdx ≠ s.cfg.n - 1 → t.mode = .clr ∧ t.clrIdx = s.clrIdx + 1 ∧ t.rspv = false ∧ t.rspd = 0

theorem clrArm_clearsCell {s : State} (hm : s.mode = .clr) (hrv : s.rspv = false) (hrd : s.rspd = 0)
    (hi : s.clrIdx < s.cfg.n) : ∃ t, clrArm s = .next t ∧ ClearsCell s t := by
  rw [clrArm, storePixel_of_lt hi, onNext_next]
  split
  next hlast =>
    exact ⟨_, rfl, rfl, rfl, .rfl s, ⟨rfl, rfl, rfl, rfl, rfl⟩, fun _ => ⟨rfl, rfl, rfl, rfl⟩,
      fun hmore => absurd hlast hmore⟩
  next hmore =>
    exact ⟨_, rfl, rfl, rfl, .rfl s, ⟨rfl, rfl, rfl, rfl, rfl⟩, fun hlast => absurd hlast hmore,
      fun _ => ⟨hm, rfl, hrv, hrd⟩⟩

theorem step_clearsCell {s : State} (hv : s.cfg.Valid) (hm : s.mode = .clr) (hr : s.pins.rst = false)
    (hi : s.clrIdx < s.cfg.n) : ∃ t, step s = .next t ∧ ClearsCell s t := by
  obtain ⟨t, ht, hc⟩ := clrArm_clearsCell (s := clearResponse s) hm rfl rfl hi
  refine ⟨_, step_of_clockEdge hv ?_, hc.cfg, hc.pix, hc.flags, hc.path, hc.last, hc.more⟩
  rw [clockEdge_of_rst_eq_false hr, modeArm, clearResponse_mode, hm]
  exact ht

/-- Settles O23: the edge writes black to cell `CLRIDX`, which changes the bytes of that cell alone. -/
theorem clrEdge : Obligations.ClrEdge := by
  rintro s ⟨hv, ⟨hwf, -⟩, -, -, -, -, -, ⟨hi, -⟩, -⟩ hm hr
  obtain ⟨t, ht, hc⟩ := step_clearsCell hv hm hr hi
  refine ⟨t, ht, ?_, fun a ha => ?_, hc.flags, hc.path, hc.last, hc.more⟩ <;> rw [hc.pix]
  · exact readPixel_writePixel_same hwf _ _
  · exact readByte_writePixel_outside hwf ha _

/-! ### The run -/

/-- `u` has the first `k` cells of `s` cleared by a `CLEAR` that was accepted in `s`. -/
structure ClearedTo (s : State) (k : Nat) (u : State) : Prop where
  cfg : u.cfg = s.cfg
  pix : u.pix = blackCells k s.pix
  flags : SameFlags s u
  busy : k < s.cfg.n → u.mode = .clr ∧ u.clrIdx = k ∧ u.rspv = false
  done : k = s.cfg.n → u.mode = .idle ∧ u.rspv = true ∧ u.rspd = 0

/-- The accepting edge clears cell 0 (R125). -/
theorem step_clearedTo {s : State} (hv : s.cfg.Valid) (hc : commandAt s = some .clear) :
    ∃ t, step s = .next t ∧ ClearedTo s 1 t := by
  obtain ⟨ha, -⟩ := (commandAt_eq_some_iff _ _).1 hc
  obtain ⟨-, -, hm, -⟩ := (accepts_iff s).1 ha
  have hn : 0 < s.cfg.n := hv.1
  refine ⟨_, step_of_commandAt hv hc (exec_clear_of_pos hn), ?_⟩
  split
  next h1 => exact ⟨rfl, rfl, .rfl s, fun hlt => absurd h1.symm hlt.ne, fun _ => ⟨hm, rfl, rfl⟩⟩
  next h1 => exact ⟨rfl, rfl, .rfl s, fun _ => ⟨rfl, rfl, rfl⟩, fun he => absurd he.symm h1⟩

/-- Every further edge clears the next cell (R126). -/
theorem ClearedTo.step {s u : State} {k : Nat} (h : ClearedTo s k u) (hv : s.cfg.Valid) (hk : k < s.cfg.n)
    (hr : u.pins.rst = false) : ∃ v, step u = .next v ∧ ClearedTo s (k + 1) v := by
  obtain ⟨hcfg, hpix, hflags, hbusy, -⟩ := h
  obtain ⟨hm, hi, -⟩ := hbusy hk
  obtain ⟨v, hstep, hc⟩ := step_clearsCell (by rwa [hcfg]) hm hr (by rwa [hcfg, hi])
  refine ⟨v, hstep, hc.cfg.trans hcfg, ?_, hflags.trans hc.flags, fun hlt => ?_, fun he => ?_⟩
  · rw [hc.pix, hpix, hi, blackCells]
  · obtain ⟨hm', hi', hrv, -⟩ := hc.more (by rw [hcfg, hi]; omega)
    exact ⟨hm', by rw [hi', hi], hrv⟩
  · obtain ⟨hm', -, hrv, hrd⟩ := hc.last (by rw [hcfg, hi]; omega)
    exact ⟨hm', hrv, hrd⟩

theorem ClearedTo.run {s u : State} {k j : Nat} (h : ClearedTo s k u) (hv : s.cfg.Valid)
    (hj : k + j ≤ s.cfg.n) (hr : NoReset j u) : ∃ v, run j u = .next v ∧ ClearedTo s (k + j) v := by
  induction j generalizing k u with
  | zero => exact ⟨u, rfl, h⟩
  | succ j ih =>
    obtain ⟨t, ht, hc⟩ := h.step hv (by omega) hr.rst_eq_false
    rw [run_succ ht, ← Nat.add_assoc, Nat.add_right_comm]
    exact ih hc (by omega) (hr.tail ht)

theorem NoReset.mono {j k : Nat} {s : State} (h : NoReset k s) (hj : j ≤ k) : NoReset j s :=
  fun i hi => h i (hi.trans_le hj)

/-- After `k` edges of an accepted `CLEAR` the first `k` cells are cleared. -/
theorem run_clearedTo {s : State} (hv : s.cfg.Valid) (hc : commandAt s = some .clear)
    (hr : NoReset s.cfg.n s) {k : Nat} (h1 : 1 ≤ k) (hk : k ≤ s.cfg.n) :
    ∃ u, run k s = .next u ∧ ClearedTo s k u := by
  obtain ⟨j, rfl⟩ := Nat.exists_eq_add_of_le' h1
  obtain ⟨t, ht, hstart⟩ := step_clearedTo hv hc
  rw [run_succ ht, Nat.add_comm]
  exact hstart.run hv (by omega) ((hr.mono hk).tail ht)

/-- Settles O44: edge by edge the first cells are black, and at cell `N - 1` the response comes. -/
theorem clearRunsToBlack : Obligations.ClearRunsToBlack := by
  rintro s ⟨hv, hstore, -⟩ hc hr
  refine ⟨fun k h1 hk => ?_, ?_⟩
  · obtain ⟨u, hu, h⟩ := run_clearedTo hv hc hr h1 hk.le
    obtain ⟨hm, -, hrv⟩ := h.busy hk
    refine ⟨u, hu, hm, by simp [cmdReady, hm], hrv, fun i hi => ?_, fun i hi => ?_⟩ <;>
      rw [h.pix, readPixel_blackCells hstore.1]
    · exact if_pos hi
    · exact if_neg (Nat.not_lt.2 hi)
  · obtain ⟨u, hu, h⟩ := run_clearedTo hv hc hr hv.1 le_rfl
    obtain ⟨hm, hrv, hrd⟩ := h.done rfl
    refine ⟨u, hu, hm, hrv, hrd, fun i => ?_, h.flags⟩
    rw [h.pix, readPixel_blackCells hstore.1]
    split
    · rfl
    · next hi => exact readPixel_past_store hstore (Nat.not_lt.1 hi)

/-- Settles O22: both ways write black to the same cells in the same order. -/
theorem clearIsBlackEverywhere : Obligations.ClearIsBlackEverywhere := by
  rintro s ⟨hv, ⟨hwf, -⟩, -⟩ hc hr
  obtain ⟨hn, hn', -⟩ := id hv
  obtain ⟨u, hu, h⟩ := run_clearedTo hv hc hr hn le_rfl
  obtain ⟨v, hset, -, hpix, hflags⟩ := setBlack_eq_blackCells le_rfl hn'
  refine ⟨u, v, hu, hset, h.pix.trans hpix.symm, fun i hi => ?_, h.flags, hflags⟩
  rw [h.pix, readPixel_blackCells hwf, if_pos hi]

end Sys2Proof.Machine
end

section
/-! `INIT`, `WRITE` and `STAT` at their accepting edge (41_transmit_ops.md R140 to R144, R146, R148). -/

namespace Sys2Proof.Machine

/-- Settles O16: the three outcomes of `INIT`, each by its own equation. -/
theorem initClaimsOrFaults : Obligations.InitClaimsOrFaults :=
  fun _ => ⟨execInit_reinit, execInit_noChan, execInit_claims⟩

/-- Settles O17: the two outcomes of `WRITE`, each by its own equation. -/
theorem writeStartsOrFaults : Obligations.WriteStartsOrFaults :=
  fun _ => ⟨execWrite_notInit, execWrite_starts⟩

/-- R34: the five flags of `STATUS` but `FATAL`, and the two bits that are always 0. -/
theorem getLsbD_status (s : State) :
    (status s).getLsbD 0 = s.initd ∧ (status s).getLsbD 2 = s.idxf ∧ (status s).getLsbD 3 = s.illf ∧
    (status s).getLsbD 4 = s.seqf ∧ (status s).getLsbD 6 = false ∧ (status s).getLsbD 7 = false := by
  simp only [status, BitVec.getLsbD_append, BitVec.getLsbD_ofBool]
  simp

/-- Settles O18: `exec` of `STAT` is its response, and the bits of `STATUS` are read off it one by one. -/
theorem statReportsStatus : Obligations.StatReportsStatus := by
  intro s
  obtain ⟨hinitd, hidxf, hillf, hseqf, h6, h7⟩ := getLsbD_status s
  exact ⟨rfl, hinitd, getLsbD_status_fatal s, hidxf, hillf, hseqf, getLsbD_status_busy s, h6, h7⟩

end Sys2Proof.Machine
end

section
/-! The rows of R150 that drive the wire, and the response of a `WRITE` (41_transmit_ops.md R147). -/

namespace Sys2Proof.Machine

/-- The row of a successful `INIT` (R150). -/
theorem transact_init {w : Word} {s : State} (hd : decode w = .ok .init) (hi : s.initd = false)
    (ha : s.pins.chanAvail = true) : transact w s =
      ⟨{ s with initd := true }, 0x00000000, [.low s.cfg.latchTicks], s.cfg.latchTicks⟩ := by
  simp [transact, hd, hi, ha]

/-- The row of a `WRITE` that sends a frame (R150). -/
theorem transact_write {w : Word} {s : State} (hd : decode w = .ok .write) (hi : s.initd = true) :
    transact w s = ⟨s, 0x00000000,
      .low 2 :: (frameBits s.pix (24 * s.cfg.n)).map .sym ++ [.low s.cfg.latchTicks], writeTicks s.cfg⟩ := by
  simp [transact, hd, hi, writeTicks, frameTicks]

/-- Settles O47: it is the row of R150 for a `WRITE`, which the ticks refine. -/
theorem writeResponds : Obligations.WriteResponds := by
  intro s h hc hi hr
  obtain ⟨ha, hd⟩ := (commandAt_eq_some_iff _ _).1 hc
  have href := ticksRefineTransactions s h ha
  rw [transact_write hd hi] at href
  obtain ⟨hbusy, u, hu, hrv, hrd, -, hstore, hflags⟩ := href hr
  exact ⟨fun k hk => hbusy (k + 1) (Nat.le_add_left ..) hk, u, hu, hrv, hrd, hstore, hflags⟩

end Sys2Proof.Machine
end

section
/-! The engine sends the frame of the store (20_memory.md R70; 42_transmit_engine.md R163 to R165, R170): what is
queued and what is in `SR` stay the frame's bytes at their places, edge by edge. -/

namespace Sys2Proof.Machine

/-! ### Bytes of the frame in a row -/

/-- `len` bytes of the frame from byte `i` on. -/
def frameBytesFrom (m : Memory) (i len : Nat) : List Byte := (List.range len).map fun k => frameByte m (i + k)

theorem frameBytesFrom_succ (m : Memory) (i len : Nat) :
    frameBytesFrom m i (len + 1) = frameByte m i :: frameBytesFrom m (i + 1) len := by
  simp only [frameBytesFrom, List.range_succ_eq_map, List.map_cons, List.map_map, Nat.add_zero,
    Nat.add_right_comm i 1]
  rfl

theorem frameBytesFrom_concat (m : Memory) (i len : Nat) :
    frameBytesFrom m i (len + 1) = frameBytesFrom m i len ++ [frameByte m (i + len)] := by
  simp [frameBytesFrom, List.range_succ]

/-- R165: the byte at the converter's position is byte `3 CELL + CHAN` of the frame. -/
theorem frameByte_bytesPushed (s : State) :
    frameByte s.pix (bytesPushed s) = (readPixel s.pix s.cell).channel s.chan := by
  have hlt : s.chan.code < 3 := Nat.lt_succ_of_le (Chan.code_le s.chan)
  rw [frameByte, bytesPushed, Nat.mul_add_div (by decide), Nat.div_eq_of_lt hlt, Nat.mul_add_mod,
    Nat.mod_eq_of_lt hlt, Nat.add_zero]
  cases s.chan <;> rfl

/-! ### What a frame in progress holds -/

/-- What `SendsFrame` says of a frame in progress, with `loaded` bytes of it loaded into `SR` so far. -/
structure HoldsFrame (loaded : Nat) (s : State) : Prop where
  pushed : bytesPushed s = loaded + s.q.length
  queue : s.q = frameBytesFrom s.pix loaded s.q.length
  window : s.shifting = true → ∃ i, loaded = i + 1 ∧ s.sr = frameByte s.pix i <<< (8 - s.nbit)
  start : s.shifting = false → loaded = 0

theorem HoldsFrame.loaded_eq {loaded : Nat} {s : State} (h : HoldsFrame loaded s) : loaded = bytesLoaded s := by
  rw [bytesLoaded, h.pushed, Nat.add_sub_cancel]

theorem sendsFrame_iff (s : State) : SendsFrame s ↔ (s.mode = .frame → ∃ loaded, HoldsFrame loaded s) := by
  refine ⟨fun h hm => ?_, fun h hm => ?_⟩
  · obtain ⟨hle, hq, hon, hoff⟩ := h hm
    refine ⟨bytesLoaded s, (Nat.sub_add_cancel hle).symm, hq, fun hs => ?_, hoff⟩
    obtain ⟨h1, hsr⟩ := hon hs
    exact ⟨bytesLoaded s - 1, (Nat.sub_add_cancel h1).symm, hsr⟩
  · obtain ⟨loaded, hload⟩ := h hm
    obtain ⟨hp, hq, hon, hoff⟩ := id hload
    rw [← hload.loaded_eq]
    refine ⟨hp ▸ Nat.le_add_left .., hq, fun hs => ?_, hoff⟩
    obtain ⟨i, rfl, hsr⟩ := hon hs
    exact ⟨Nat.le_add_left .., hsr⟩

theorem sendsFrame_of_mode_ne_frame {s : State} (h : s.mode ≠ .frame) : SendsFrame s := fun hm => absurd hm h

/-! ### One edge -/

/-- R163, R164: the serializer sub-steps move bytes of the frame on, in their order, unless they end it. -/
theorem HoldsFrame.serializer {loaded : Nat} {s : State} (h : HoldsFrame loaded s) (hw : WindowOk s)
    (hmore : ¬ (SymbolEnds s ∧ s.nbit = 1 ∧ s.q = [])) :
    ∃ l, HoldsFrame l (serializerLoad (serializerAdvance s)) := by
  obtain ⟨hp, hq, hon, hoff⟩ := id h
  rcases serializer_cases hw with ⟨-, -, he⟩ | ⟨⟨hs, -⟩, hn, he⟩ | ⟨byte, rest, -, hbytes, he⟩ |
    ⟨hend, hn, hempty, -⟩ | ⟨-, -, he⟩
  · exact ⟨loaded, he ▸ ⟨hp, hq, hon, hoff⟩⟩
  · obtain ⟨i, hi, hsr⟩ := hon hs
    obtain ⟨-, h8, -⟩ := hw hs
    have hshift : 8 - (s.nbit - 1) = 8 - s.nbit + 1 := by omega
    refine ⟨loaded, he ▸ ⟨hp, hq, fun _ => ⟨i, hi, ?_⟩, hoff⟩⟩
    simp only [hshift, BitVec.shiftLeft_add, ← hsr]
  · rw [hbytes, List.length_cons, frameBytesFrom_succ, List.cons.injEq] at hq
    obtain ⟨hbyte, hrest⟩ := hq
    rw [hbytes, List.length_cons, Nat.add_comm _ 1, ← Nat.add_assoc] at hp
    exact ⟨loaded + 1, he ▸ ⟨hp, hrest, fun _ => ⟨loaded, rfl, by simpa using hbyte⟩, by simp⟩⟩
  · exact absurd ⟨hend, hn, hempty⟩ hmore
  · exact ⟨loaded, by rwa [he]⟩

/-- R165: the byte pushed is the next one of the frame. -/
theorem HoldsFrame.converterPush {loaded : Nat} {s t : State} (h : HoldsFrame loaded s)
    (ht : converterPush s = .next t) : HoldsFrame loaded t := by
  obtain ⟨hp, hq, hon, hoff⟩ := id h
  have hqueue : s.q ++ [(readPixel s.pix s.cell).channel s.chan] = frameBytesFrom s.pix loaded (s.q.length + 1) := by
    rw [frameBytesFrom_concat, ← hp, frameByte_bytesPushed, ← hq]
  rw [converterPush_eq] at ht
  cases ht
  split
  · obtain ⟨cell, chan, hn, hb⟩ :=
      converterNext_eq { s with q := s.q ++ [(readPixel s.pix s.cell).channel s.chan] }
    have hlen : (s.q ++ [(readPixel s.pix s.cell).channel s.chan]).length = s.q.length + 1 := by simp
    rw [hn]
    exact ⟨by rw [hlen]; exact hb.trans (congrArg Nat.succ hp), by rw [hlen]; exact hqueue, hon, hoff⟩
  · exact h

/-- R166: the check changes nothing unless it ends the frame. -/
theorem frameEndCheck_eq_self {s : State} (h : (frameEndCheck s).mode = .frame) : frameEndCheck s = s := by
  unfold frameEndCheck at h ⊢
  split at h
  · cases h
  · next hmore => exact if_neg hmore

/-- R166: with the frame's last byte pushed, the end of the last window ends the frame. -/
theorem frameArm_of_last_window {s : State} (hend : SymbolEnds s) (hn : s.nbit = 1) (hq : s.q = [])
    (hp : bytesPushed s = 3 * s.cfg.n) : frameArm s = .next { s with
      mode := .gap, gapCnt := s.cfg.latchTicks, shifting := false, sr := 0, nbit := 0, tcnt := 0 } := by
  obtain ⟨hs, ht⟩ := hend
  have he : serializerLoad (serializerAdvance s) = { s with shifting := false, sr := 0, nbit := 0, tcnt := 0 } := by
    simp [serializerAdvance, serializerLoad, hs, ht, hn, hq]
  rw [frameArm, he]
  exact frame_ends rfl hq hp

/-- R160, R170: a `FRAME` edge keeps the frame's bytes in their places, and ends the frame with the last of them. -/
theorem frameArm_sendsFrame {s t : State} (hf : InFrame s) (h : SendsFrame s) (hm : s.mode = .frame)
    (ht : frameArm s = .next t) : SendsFrame t := by
  obtain ⟨hw, -, hlast⟩ := hf
  obtain ⟨loaded, hload⟩ := (sendsFrame_iff s).1 h hm
  by_cases hend : SymbolEnds s ∧ s.nbit = 1 ∧ s.q = []
  · obtain ⟨hsym, hn, hq⟩ := hend
    obtain ⟨hs, -⟩ := id hsym
    cases (frameArm_of_last_window hsym hn hq ((hlast hq).1 hs)).symm.trans ht
    exact sendsFrame_of_mode_ne_frame (by simp)
  · obtain ⟨l, hl⟩ := hload.serializer hw hend
    obtain ⟨u, hu, he⟩ := frameArm_eq s
    cases he.symm.trans ht
    refine (sendsFrame_iff _).2 fun hm' => ⟨l, ?_⟩
    rw [frameEndCheck_eq_self hm']
    exact hl.converterPush hu

/-! ### The modes an edge can leave -/

theorem mode_eq_idle_of_accepts {s : State} (h : accepts s = true) : s.mode = .idle := by
  obtain ⟨-, -, hm, -⟩ := (accepts_iff s).1 h
  exact hm

theorem mode_eq_idle_of_commandAt {s : State} {i : Instr} (h : commandAt s = some i) : s.mode = .idle :=
  mode_eq_idle_of_accepts ((commandAt_eq_some_iff s i).1 h).1

/-- The mode a command leaves at its accepting edge (42_transmit_engine.md R161). -/
theorem exec_mode {i : Instr} {s t : State} (h : exec i s = .next t) :
    t.mode = s.mode ∨ t.mode = .gap ∨ (i = .write ∧ s.initd = true ∧ t.mode = .frame) ∨
      (i = .clear ∧ t.mode = .clr) := by
  cases i with
  | init => rcases execInit_eq_next h with ⟨-, rfl⟩ | ⟨-, -, rfl⟩ | ⟨-, -, rfl⟩ <;> simp
  | write => rcases execWrite_eq_next h with ⟨-, rfl⟩ | ⟨hi, rfl⟩ <;> simp [*]
  | setPix idx r g b => rcases execSetPix_eq_next h with ⟨-, rfl⟩ | ⟨-, rfl⟩ <;> simp
  | clear => obtain ⟨-, ⟨-, rfl⟩ | ⟨-, rfl⟩⟩ := execClear_eq_next h <;> simp
  | get idx => rcases execGet_eq_next h with ⟨-, rfl⟩ | ⟨-, rfl⟩ <;> simp
  | stat => cases execStat_eq_next h; simp

/-- How an edge comes to leave `FRAME` or `CLR`: it was in it, or it accepts `WRITE` or `CLEAR` (R161). -/
theorem EdgeCase.mode_cases {s t : State} (h : EdgeCase s t) :
    t.mode = .idle ∨ t.mode = .gap ∨
    (t.mode = .frame ∧ (s.mode = .frame ∨ (commandAt s = some .write ∧ s.initd = true))) ∨
    (t.mode = .clr ∧ (s.mode = .clr ∨ commandAt s = some .clear)) := by
  cases h with
  | reset _ => exact .inl rfl
  | command _ hc ht =>
    have hm := mode_eq_idle_of_commandAt hc
    rcases exec_mode ht with hsame | hgap | ⟨rfl, hi, hframe⟩ | ⟨rfl, hclr⟩
    · exact .inl (hsame.trans hm)
    · exact .inr (.inl hgap)
    · exact .inr (.inr (.inl ⟨hframe, .inr ⟨hc, hi⟩⟩))
    · exact .inr (.inr (.inr ⟨hclr, .inr hc⟩))
  | illegal _ ha _ => exact .inl ((raiseFault_mode _ _).trans (mode_eq_idle_of_accepts ha))
  | rest _ hm _ => exact .inl hm
  | clr _ hm ht =>
    obtain ⟨-, ⟨-, rfl⟩ | ⟨-, rfl⟩⟩ := clrArm_eq_next ht
    · exact .inl rfl
    · exact .inr (.inr (.inr ⟨hm, .inl hm⟩))
  | frame _ hm ht =>
    obtain ⟨-, -, hsame | hgap⟩ := frameArm_engineOnly ht
    · exact .inr (.inr (.inl ⟨hsame.trans hm, .inl hm⟩))
    · exact .inr (.inl hgap)
  | gap _ hm =>
    rcases gapArm_cases (clearResponse s) with ⟨-, he⟩ | ⟨-, he⟩ <;> rw [he]
    · exact .inl rfl
    · exact .inr (.inl hm)

theorem EdgeCase.frame_cases {s t : State} (h : EdgeCase s t) (hm : t.mode = .frame) :
    s.mode = .frame ∨ (commandAt s = some .write ∧ s.initd = true) := by
  simpa [hm] using h.mode_cases

theorem EdgeCase.clr_cases {s t : State} (h : EdgeCase s t) (hm : t.mode = .clr) :
    s.mode = .clr ∨ commandAt s = some .clear := by
  simpa [hm] using h.mode_cases

/-! ### Every step -/

theorem clockEdge_of_frame {s : State} (hr : s.pins.rst = false) (hm : s.mode = .frame) :
    clockEdge s = frameArm (clearResponse s) := by
  rw [clockEdge_of_rst_eq_false hr, modeArm, clearResponse_mode, hm]

theorem EdgeCase.rst_eq_false {s t : State} (h : EdgeCase s t) (hm : t.mode ≠ .idle) : s.pins.rst = false := by
  by_contra hr
  rw [h.eq_resetBlock (by simpa using hr)] at hm
  exact hm rfl

/-- A `WRITE` starts with nothing of the frame queued or shifted (R144). -/
theorem holdsFrame_start {s : State} (hq : s.q = []) (hs : s.shifting = false) (hc : s.cell = 0)
    (hg : s.chan = .green) : HoldsFrame 0 s :=
  ⟨by rw [bytesPushed_eq_zero hc hg, hq]; rfl, by rw [hq]; rfl, by simp [hs], fun _ => rfl⟩

/-- R170: every step keeps the frame's bytes in their places. -/
theorem step_sendsFrame {s u : State} (h : s.Inv) (hf : s.mode = .frame → InFrame s) (hsend : SendsFrame s)
    (hstep : step s = .next u) : SendsFrame u := by
  obtain ⟨-, t, ht, rfl⟩ := step_eq_next hstep
  refine (sendsFrame_iff _).2 fun hm => ?_
  have he := edgeCase_of_clockEdge ht
  have hr := he.rst_eq_false (by simp [show t.mode = .frame from hm])
  rcases he.frame_cases hm with hs | ⟨hc, hi⟩
  · rw [clockEdge_of_frame hr hs] at ht
    have hkept : SendsFrame t := frameArm_sendsFrame (s := clearResponse s) (hf hs) hsend hs ht
    exact (sendsFrame_iff (afterEdge _ t)).1 hkept hm
  · obtain ⟨ha, hd⟩ := (commandAt_eq_some_iff _ _).1 hc
    obtain ⟨-, -, ⟨hrest, -⟩, -⟩ := h
    obtain ⟨hq, hs⟩ := hrest (by simp [mode_eq_idle_of_accepts ha])
    rw [clockEdge_of_accepts ha, execute, hd] at ht
    cases (execWrite_starts (s := clearResponse s) hi).symm.trans ht
    exact ⟨0, holdsFrame_start hq hs rfl rfl⟩

end Sys2Proof.Machine
end

section
/-! The period a transmission is in, by the ticks it has left, and the level and mode of that period
(41_transmit_ops.md R141, R145). -/

namespace Sys2Proof.Machine

/-! ### The level in a frame, and outside -/

theorem line_of_not_shifting {s : State} (hs : s.shifting = false) :
    line s = if s.initd then .l else .z := by
  simp [line, doutEn, dout, hs]

/-- R168: within a window the line is at the level of the symbol of `SR`'s first bit. -/
theorem line_of_shifting {s : State} (hi : s.initd = true) (hs : s.shifting = true) :
    line s = symbolLevel s.cfg s.sr.msb s.tcnt := by
  simp [line, doutEn, dout, hi, hs, symbolLevel]

/-- R163, R170: the symbol on the wire carries bit `8 i + (8 - NBIT)` of the frame, `i` being the byte in `SR`. -/
theorem msb_shiftLeft_frameByte (m : Memory) (i : Nat) {n : Nat} (h1 : 1 ≤ n) (h8 : n ≤ 8) :
    (frameByte m i <<< (8 - n)).msb = frameBit m (8 * i + (8 - n)) := by
  have hlt : 8 - n < 8 := by omega
  rw [frameBit, Nat.mul_add_div (by decide), Nat.div_eq_of_lt hlt, Nat.mul_add_mod, Nat.mod_eq_of_lt hlt,
    Nat.add_zero, BitVec.msb_shiftLeft, BitVec.getMsbD_eq_getLsbD, decide_eq_true hlt, Bool.true_and]

/-! ### Inside the frame -/

/-- The line is low after the frame (R145). -/
theorem writeLevel_of_le {c : Config} {k : Nat} (m : Memory) (h : 2 + frameTicks c ≤ k) :
    writeLevel c m k = .l := by
  rw [writeLevel, if_neg (by omega), if_neg (by omega)]

/-- The level of period `t` of symbol `j` of a `WRITE` (R145). -/
theorem writeLevel_symbol {c : Config} {j t k : Nat} (m : Memory) (ht : t < c.symTicks)
    (hk : k = 2 + (c.symTicks * j + t)) (hlt : k < 2 + frameTicks c) :
    writeLevel c m k = symbolLevel c (frameBit m j) t := by
  have hpos : 0 < c.symTicks := Nat.zero_lt_of_lt ht
  rw [writeLevel, if_neg (by omega), if_pos hlt, hk, Nat.add_sub_cancel_left, Nat.mul_add_div hpos,
    Nat.div_eq_of_lt ht, Nat.mul_add_mod, Nat.mod_eq_of_lt ht, Nat.add_zero]

theorem frameTicksLeft_pos {s : State} (h : WindowOk s) : 0 < frameTicksLeft s := by
  rcases hs : s.shifting with _ | _
  · rw [frameTicksLeft_of_not_shifting hs]
    split <;> omega
  · obtain ⟨-, -, ht⟩ := h hs
    rw [frameTicksLeft_of_shifting hs]
    omega

/-- R145, R169: a frame that has loaded nothing has every bit ahead of it. -/
theorem HoldsFrame.frameTicksLeft_start {s : State} (h : HoldsFrame 0 s) (hs : s.shifting = false)
    (hp : bytesPushed s ≤ 3 * s.cfg.n) :
    frameTicksLeft s = (if s.q = [] then 2 else 1) + frameTicks s.cfg := by
  have hdue : bytesDue s = 3 * s.cfg.n := by
    have hpushed := h.pushed
    unfold bytesDue
    omega
  rw [frameTicksLeft_of_not_shifting hs, hdue, frameTicks]
  ring

/-- R145, R172: in period `tcnt` of its symbol `8 i + (8 - NBIT)` a frame has the rest of its ticks ahead. -/
theorem HoldsFrame.frameTicksLeft_window {i : Nat} {s : State} (h : HoldsFrame (i + 1) s)
    (hs : s.shifting = true) (hw : WindowOk s) (hp : bytesPushed s ≤ 3 * s.cfg.n) :
    frameTicksLeft s + (s.cfg.symTicks * (8 * i + (8 - s.nbit)) + s.tcnt) = frameTicks s.cfg := by
  obtain ⟨h1, h8, ht⟩ := hw hs
  have hbits : s.nbit - 1 + 8 * bytesDue s + (8 * i + (8 - s.nbit)) + 1 = 24 * s.cfg.n := by
    have hpushed := h.pushed
    unfold bytesDue
    omega
  rw [frameTicksLeft_of_shifting hs, frameTicks, ← hbits, Nat.mul_comm _ s.cfg.symTicks, Nat.mul_succ,
    Nat.mul_add _ (s.nbit - 1 + 8 * bytesDue s)]
  omega

/-- R145: the level of a frame in progress is that of its period. -/
theorem HoldsFrame.line_eq {loaded k : Nat} {s : State} (h : HoldsFrame loaded s) (hi : s.initd = true)
    (hw : WindowOk s) (hp : bytesPushed s ≤ 3 * s.cfg.n) (hk : frameTicksLeft s + k = 2 + frameTicks s.cfg) :
    line s = writeLevel s.cfg s.pix k := by
  rcases hs : s.shifting with _ | _
  · obtain rfl := h.start hs
    rw [h.frameTicksLeft_start hs hp] at hk
    rw [line_of_not_shifting hs, if_pos hi, writeLevel, if_pos (by split at hk <;> omega)]
  · obtain ⟨i, rfl, hsr⟩ := h.window hs
    obtain ⟨h1, h8, ht⟩ := hw hs
    have hleft := h.frameTicksLeft_window hs hw hp
    have hpos := frameTicksLeft_pos hw
    have hk' : k = 2 + (s.cfg.symTicks * (8 * i + (8 - s.nbit)) + s.tcnt) := by omega
    rw [line_of_shifting hi hs, hsr, msb_shiftLeft_frameByte _ _ h1 h8, writeLevel_symbol _ ht hk' (by omega)]

/-! ### A whole transmission -/

theorem ticksLeft_of_gap {s : State} (hm : s.mode = .gap) : ticksLeft s = s.gapCnt := by
  simp [ticksLeft, hm]

/-- What a state keeps from the acceptance of a successful `INIT` or `WRITE` to the response. -/
structure Transmits (c : Config) (s : State) : Prop where
  cfg : s.cfg = c
  inv : s.Inv
  initd : s.initd = true
  mode : s.mode ≠ .clr
  content : SendsFrame s

/-- R141, R145: the ticks left tell the level and the mode of a transmission; an `INIT` has those of a `WRITE` in
its gap. -/
theorem Transmits.line_mode {c : Config} {s : State} {k : Nat} (h : Transmits c s) (hc : InCommand s)
    (hk : ticksLeft s + k = writeTicks c) : line s = writeLevel c s.pix k ∧ s.mode = writeMode c k := by
  obtain ⟨rfl, ⟨-, -, ⟨hrest, -⟩, ⟨-, hgap⟩, -⟩, hi, hclr, hsend⟩ := h
  have hrestLevel (hm : s.mode ≠ .frame) (hle : 2 + frameTicks s.cfg ≤ k) : line s = writeLevel s.cfg s.pix k := by
    obtain ⟨-, hs⟩ := hrest hm
    rw [line_of_not_shifting hs, if_pos hi, writeLevel_of_le _ hle]
  unfold writeMode
  unfold writeTicks at hk ⊢
  cases hm : s.mode with
  | idle =>
    rw [ticksLeft_of_idle hm] at hk
    exact ⟨hrestLevel (by simp [hm]) (by omega), by rw [if_neg (by omega), if_neg (by omega)]⟩
  | clr => exact absurd hm hclr
  | frame =>
    obtain ⟨hw, hp, -⟩ := hc.frame hm
    obtain ⟨loaded, hload⟩ := (sendsFrame_iff s).1 hsend hm
    have hpos := frameTicksLeft_pos hw
    rw [ticksLeft_of_frame hm] at hk
    exact ⟨hload.line_eq hi hw hp (by omega), by rw [if_pos (by omega)]⟩
  | gap =>
    obtain ⟨h1, hle⟩ := hgap hm
    rw [ticksLeft_of_gap hm] at hk
    exact ⟨hrestLevel (by simp [hm]) (by omega), by rw [if_neg (by omega), if_pos (by omega)]⟩

end Sys2Proof.Machine
end

section
/-! `INIT` and `WRITE` from their acceptance to their response (41_transmit_ops.md R141, R145): what every edge of a
command in progress keeps is carried through its run. -/

namespace Sys2Proof.Machine

/-! ### What a command carries along -/

/-- `P` goes from edge to edge of a command in progress. -/
def KeptInCommand (P : State → Prop) : Prop :=
  ∀ s t : State, InCommand s → s.mode ≠ .idle → s.pins.rst = false → step s = .next t → P s → P t

/-- A transaction in progress goes on edge by edge, and carries what is kept along. -/
theorem run_keeps {P : State → Prop} (hP : KeptInCommand P) {x : Txn} {j k : Nat} {u : State}
    (h : Completes x (k + j) u) (hu : P u) (hr : NoReset (k + j) u) :
    ∃ v, run j u = .next v ∧ Completes x k v ∧ P v := by
  induction j generalizing u with
  | zero => exact ⟨u, rfl, h, hu⟩
  | succ j ih =>
    obtain ⟨v, hv, hc⟩ := h.step hr.rst_eq_false
    rw [run_succ hv]
    exact ih hc (hP u v h.inCommand h.mode_ne_idle hr.rst_eq_false hv hu) (hr.tail hv)

/-- The accepting edge sets up the row of its word. -/
theorem step_completes {s : State} (h : s.Inv) (ha : accepts s = true) : ∃ t, step s = .next t ∧
    Completes (transact s.pins.cmdData s) (transact s.pins.cmdData s).edges t := by
  obtain ⟨t, ht, hc⟩ := execute_completes h (mode_eq_idle_of_accepts ha) s.pins.cmdData
  rw [← clockEdge_of_accepts ha] at ht
  exact ⟨_, step_of_clockEdge h.1 ht, hc.afterEdge _⟩

/-- Period by period from its acceptance, a command completes its row, and carries what is kept along. -/
theorem run_of_accepts {P : State → Prop} (hP : KeptInCommand P) {s : State} (h : s.Inv) (ha : accepts s = true)
    (hstart : ∀ t, step s = .next t → P t) (hr : NoReset ((transact s.pins.cmdData s).edges + 1) s) {k : Nat}
    (hk : k ≤ (transact s.pins.cmdData s).edges) : ∃ u, run (k + 1) s = .next u ∧
      Completes (transact s.pins.cmdData s) ((transact s.pins.cmdData s).edges - k) u ∧ P u := by
  obtain ⟨t, ht, hc⟩ := step_completes h ha
  obtain ⟨left, hleft⟩ := Nat.exists_eq_add_of_le' hk
  rw [hleft] at hc hr ⊢
  rw [run_succ ht, Nat.add_sub_cancel]
  exact run_keeps hP hc (hstart t ht) (hr.tail ht)

/-! ### Transmissions -/

/-- The edges after an accepted `INIT` or `WRITE` keep what a transmission is. -/
theorem transmits_keptInCommand (c : Config) : KeptInCommand (Transmits c) := by
  intro s u hc hm hr hstep h
  obtain ⟨-, hflags⟩ := flagsSetAndKept s u hstep
  obtain ⟨-, -, -, hinitd, -⟩ := hflags hr
  refine ⟨(parametersFixed s u hstep).trans h.cfg, stepKeepsInvariant s u h.inv hstep, by simp [hinitd, h.initd],
    fun hclr => ?_, step_sendsFrame h.inv hc.frame h.content hstep⟩
  obtain ⟨-, t, ht, rfl⟩ := edgeCase_of_step hstep
  rcases ht.clr_cases hclr with hs | hcmd
  · exact h.mode hs
  · rw [commandAt_eq_none_of_not_accepts (not_accepts_of_mode_ne_idle hm)] at hcmd
    cases hcmd

theorem transmits_of_step {s t : State} (h : s.Inv) (hm : s.mode = .idle) (hstep : step s = .next t)
    (hi : t.initd = true) (hclr : t.mode ≠ .clr) : Transmits s.cfg t :=
  ⟨parametersFixed s t hstep, stepKeepsInvariant s t h hstep, hi, hclr,
    step_sendsFrame h (by simp [hm]) (sendsFrame_of_mode_ne_frame (by simp [hm])) hstep⟩

/-- A successful `INIT` starts a transmission (R141). -/
theorem transmits_of_init {s t : State} (h : s.Inv) (hc : commandAt s = some .init) (hi : s.initd = false)
    (ha : s.pins.chanAvail = true) (hstep : step s = .next t) : Transmits s.cfg t := by
  cases (step_of_commandAt h.1 hc (execInit_claims (s := clearResponse s) hi ha)).symm.trans hstep
  exact transmits_of_step h (mode_eq_idle_of_commandAt hc) hstep rfl (by simp)

/-- A `WRITE` of a claimed channel starts a transmission (R144). -/
theorem transmits_of_write {s t : State} (h : s.Inv) (hc : commandAt s = some .write) (hi : s.initd = true)
    (hstep : step s = .next t) : Transmits s.cfg t := by
  cases (step_of_commandAt h.1 hc (execWrite_starts (s := clearResponse s) hi)).symm.trans hstep
  exact transmits_of_step h (mode_eq_idle_of_commandAt hc) hstep hi (by simp)

/-- The modes of R145: the response ends the gap. -/
theorem writeMode_eq_idle_iff {c : Config} {k : Nat} : writeMode c k = .idle ↔ writeTicks c ≤ k := by
  unfold writeMode
  split_ifs with hframe hgap
  · simp only [false_iff, writeTicks]
    omega
  · simp [hgap]
  · simp [Nat.not_lt.1 hgap]

/-- The port of a transmission is closed until its response. -/
theorem Transmits.cmdReady_eq {c : Config} {s : State} (h : Transmits c s) :
    cmdReady s = decide (s.mode = .idle) := by
  obtain ⟨-, ⟨-, -, -, -, ⟨-, hfatal⟩, -⟩, hi, -, -⟩ := h
  have hf : s.fatal = false := Bool.eq_false_iff.2 fun hf => by
    obtain ⟨h0, -⟩ := hfatal hf
    simp [hi] at h0
  simp [cmdReady, hf]

/-- Settles O46: the ticks left tell the period, and the period tells level, mode, response and port. -/
theorem writeWaveform : Obligations.WriteWaveform := by
  intro s h hc hi hr k hk
  obtain ⟨ha, hd⟩ := (commandAt_eq_some_iff _ _).1 hc
  obtain ⟨-, ⟨hwf, -⟩, -⟩ := id h
  have hrun := @run_of_accepts _ (transmits_keptInCommand s.cfg) s h ha fun t => transmits_of_write h hc hi
  rw [transact_write hd hi] at hrun
  obtain ⟨u, hu, hcomp, ht⟩ := hrun hr hk
  have hticks : ticksLeft u + k = writeTicks s.cfg := by rw [hcomp.ticks, Nat.sub_add_cancel hk]
  obtain ⟨hline, hmode⟩ := ht.line_mode hcomp.inCommand hticks
  have hpix : u.pix = s.pix := canonicalStoreExtensional _ _ hcomp.inCommand.store hwf fun a => by
    rw [← byteDue_of_not_clr ht.mode, hcomp.store]
  have hdone : u.mode = .idle ↔ k = writeTicks s.cfg := by
    rw [hmode, writeMode_eq_idle_iff, le_antisymm_iff, and_iff_right hk]
  refine ⟨u, hu, hpix ▸ hline, hmode, ?_, ?_⟩
  · rw [rspValid, hcomp.answers, decide_eq_decide.2 hdone]
  · rw [ht.cmdReady_eq, decide_eq_decide.2 hdone]

/-- R141: a transmission with no more than a gap to go is in the gap, or at its end. -/
theorem Transmits.line_mode_gap {c : Config} {s : State} (h : Transmits c s) (hc : InCommand s)
    (hle : ticksLeft s ≤ c.latchTicks) : line s = .l ∧ (s.mode = .gap ∨ ticksLeft s = 0) := by
  have hticks : ticksLeft s + (writeTicks c - ticksLeft s) = writeTicks c := by unfold writeTicks; omega
  obtain ⟨hline, hmode⟩ := h.line_mode hc hticks
  unfold writeMode at hmode
  unfold writeTicks at hline hmode
  refine ⟨hline.trans (writeLevel_of_le _ (by omega)), or_iff_not_imp_right.2 fun hpos => hmode.trans ?_⟩
  rw [if_neg (by omega), if_pos (by omega)]

/-- Settles O45: an `INIT` has no more than a gap to go, and answers as its row of R150 says. -/
theorem initRunsToResponse : Obligations.InitRunsToResponse := by
  intro s h hc hi ha hr
  obtain ⟨hacc, hd⟩ := (commandAt_eq_some_iff _ _).1 hc
  have hrun := @run_of_accepts _ (transmits_keptInCommand s.cfg) s h hacc fun t => transmits_of_init h hc hi ha
  rw [transact_init hd hi ha] at hrun
  refine ⟨fun k hk => ?_, ?_⟩
  · obtain ⟨u, hu, hcomp, ht⟩ := hrun hr hk.le
    obtain ⟨left, hleft⟩ := Nat.exists_eq_add_of_lt hk
    rw [show s.cfg.latchTicks - k = left + 1 by omega] at hcomp
    obtain ⟨hline, hmode⟩ := ht.line_mode_gap hcomp.inCommand (by rw [hcomp.ticks]; omega)
    obtain ⟨hrv, hready⟩ := hcomp.busy
    exact ⟨u, hu, hmode.resolve_right (by simp [hcomp.ticks]), hline, hready, hrv⟩
  · obtain ⟨u, hu, hcomp, ht⟩ := hrun hr le_rfl
    rw [Nat.sub_self] at hcomp
    obtain ⟨hline, -⟩ := ht.line_mode_gap hcomp.inCommand (by rw [hcomp.ticks]; exact Nat.zero_le _)
    obtain ⟨hrv, hrd, hmode, hstore, -⟩ := hcomp.done
    exact ⟨u, hu, hmode, ht.initd, hline, hrv, hrd, hstore⟩

end Sys2Proof.Machine
end

section
/-! The wire events of every command, period by period (41_transmit_ops.md R150). -/

namespace Sys2Proof.Machine

/-! ### The levels of the rows -/

/-- Symbols back to back: period `i` is period `i % SYM_TICKS` of symbol `i / SYM_TICKS` (R202). -/
theorem flatMap_symbolLine (c : Config) (bit : Nat → Bool) (len : Nat) :
    (List.range len).flatMap (fun j => symbolLine c (bit j)) =
      (List.range (len * c.symTicks)).map fun i => symbolLevel c (bit (i / c.symTicks)) (i % c.symTicks) := by
  induction len with
  | zero => simp
  | succ len ih =>
    rw [List.range_succ, List.flatMap_append, ih, Nat.succ_mul, List.range_add, List.map_append, List.map_map,
      List.flatMap_singleton, symbolLine]
    refine congrArg (_ ++ ·) (List.map_congr_left fun t ht => ?_)
    have hlt : t < c.symTicks := List.mem_range.1 ht
    have hpos : 0 < c.symTicks := Nat.zero_lt_of_lt hlt
    rw [Function.comp_apply, Nat.mul_comm, Nat.mul_add_div hpos, Nat.div_eq_of_lt hlt, Nat.mul_add_mod,
      Nat.mod_eq_of_lt hlt, Nat.add_zero]

theorem wireLine_init (c : Config) : wireLine c [.low c.latchTicks] = List.replicate c.latchTicks .l :=
  List.flatMap_singleton ..

/-- The row of a `WRITE` has the waveform of R145. -/
theorem wireLine_write (c : Config) (m : Memory) :
    wireLine c (.low 2 :: (frameBits m (24 * c.n)).map .sym ++ [.low c.latchTicks]) =
      (List.range (writeTicks c)).map (writeLevel c m) := by
  have hstart : List.replicate 2 Line.l = (List.range 2).map (writeLevel c m) := rfl
  have hframe : ((frameBits m (24 * c.n)).map WireEvent.sym).flatMap (eventLine c) =
      (List.range (frameTicks c)).map fun i => writeLevel c m (2 + i) := by
    rw [frameBits, List.map_map, List.flatMap_map]
    refine (flatMap_symbolLine c (frameBit m) _).trans (List.map_congr_left fun i hi => ?_)
    have hlt : i < frameTicks c := List.mem_range.1 hi
    rw [writeLevel, if_neg (by omega), if_pos (by omega), Nat.add_sub_cancel_left]
  have hgap : List.replicate c.latchTicks Line.l =
      (List.range c.latchTicks).map fun i => writeLevel c m (2 + frameTicks c + i) := by
    simp [writeLevel_of_le]
  rw [writeTicks, List.range_add, List.range_add, List.map_append, List.map_append, List.map_map, List.map_map,
    wireLine, List.flatMap_append, List.flatMap_cons, hframe, List.flatMap_singleton, eventLine, eventLine, hstart,
    hgap]
  rfl

/-- Every other row leaves the wire alone. -/
theorem transact_wire_eq_nil {w : Word} {s : State}
    (hinit : ¬ (decode w = .ok .init ∧ s.initd = false ∧ s.pins.chanAvail = true))
    (hwrite : ¬ (decode w = .ok .write ∧ s.initd = true)) : (transact w s).wire = [] := by
  unfold transact
  split
  case h_1 => rfl
  case h_2 hd =>
    split_ifs with hi ha
    · rfl
    · rfl
    · exact absurd ⟨hd, by simpa using hi, by simpa using ha⟩ hinit
  case h_3 hd =>
    split_ifs with hi
    · rfl
    · exact absurd ⟨hd, by simpa using hi⟩ hwrite
  case h_4 => split_ifs <;> rfl
  case h_5 => rfl
  case h_6 => split_ifs <;> rfl
  case h_7 => rfl

/-! ### Commands without a frame -/

/-- A state between commands, or in one that sends no frame. -/
structure OffFrame (s : State) : Prop where
  inv : s.Inv
  mode : s.mode ≠ .frame

/-- R41: without a frame the line is at its level of rest. -/
theorem OffFrame.line_eq {s : State} (h : OffFrame s) : line s = if s.initd then .l else .z := by
  obtain ⟨⟨-, -, ⟨hrest, -⟩, -⟩, hm⟩ := h
  obtain ⟨-, hs⟩ := hrest hm
  exact line_of_not_shifting hs

/-- A step that accepts no successful `WRITE` starts no frame. -/
theorem OffFrame.step {s u : State} (h : OffFrame s) (hc : ¬ (commandAt s = some .write ∧ s.initd = true))
    (hstep : step s = .next u) : OffFrame u := by
  refine ⟨stepKeepsInvariant s u h.inv hstep, fun hm => ?_⟩
  obtain ⟨-, t, ht, rfl⟩ := edgeCase_of_step hstep
  exact (ht.frame_cases hm).elim h.mode hc

theorem offFrame_keptInCommand : KeptInCommand OffFrame := by
  intro s t _ hm _ hstep h
  refine h.step ?_ hstep
  simp [commandAt_eq_none_of_not_accepts (not_accepts_of_mode_ne_idle hm)]

/-- Settles O50: a frame has the waveform of R145, an `INIT` that of its gap, and no other row drives the wire. -/
theorem transactionWire : Obligations.TransactionWire := by
  intro s h ha hr k hk
  have hcmd (i : Instr) (hd : decode s.pins.cmdData = .ok i) := (commandAt_eq_some_iff s i).2 ⟨ha, hd⟩
  by_cases hinit : decode s.pins.cmdData = .ok .init ∧ s.initd = false ∧ s.pins.chanAvail = true
  · obtain ⟨hd, hi, hav⟩ := hinit
    rw [transact_init hd hi hav] at hk hr ⊢
    obtain ⟨hgap, u, hu, -, -, hline, -⟩ := initRunsToResponse s h (hcmd _ hd) hi hav hr
    rw [wireLine_init]
    rcases hk.lt_or_eq with hlt | rfl
    · obtain ⟨u, hu, -, hline, -⟩ := hgap k hlt
      exact ⟨u, hu, by simpa [hlt] using hline⟩
    · exact ⟨u, hu, by simpa using hline⟩
  by_cases hwrite : decode s.pins.cmdData = .ok .write ∧ s.initd = true
  · obtain ⟨hd, hi⟩ := hwrite
    rw [transact_write hd hi] at hk hr ⊢
    obtain ⟨u, hu, hline, -⟩ := writeWaveform s h (hcmd _ hd) hi hr k hk
    refine ⟨u, hu, hline.trans ?_⟩
    rw [wireLine_write, List.getElem?_map, if_pos hi]
    rcases hk.lt_or_eq with hlt | rfl
    · simp [hlt]
    · rw [writeTicks]
      simpa using writeLevel_of_le s.pix (Nat.le_add_right (2 + frameTicks s.cfg) s.cfg.latchTicks)
  · have hoff : OffFrame s := ⟨h, by simp [mode_eq_idle_of_accepts ha]⟩
    obtain ⟨u, hu, hcomp, hrest⟩ := run_of_accepts offFrame_keptInCommand h ha
      (fun t ht => hoff.step (by rwa [commandAt_eq_some_iff, and_iff_right ha]) ht) hr hk
    obtain ⟨hi, -⟩ := hcomp.flags
    refine ⟨u, hu, hrest.line_eq.trans ?_⟩
    rw [transact_wire_eq_nil hinit hwrite, hi]
    rfl

end Sys2Proof.Machine
end

section
/-! The frame in progress from edge to edge (42_transmit_engine.md R170, R171): the queue is fed exactly as long as
it lasts, and every edge that leaves `FRAME` keeps that. -/

namespace Sys2Proof.Machine

/-! ### The converter's position -/

/-- While a cell is left, so is a byte. -/
theorem bytesPushed_lt {s : State} (h : s.cell < s.cfg.n) : bytesPushed s < 3 * s.cfg.n := by
  have := Chan.code_le s.chan
  rw [bytesPushed]
  omega

theorem bytesPushed_eq_of_cell_eq {s : State} (h : EngineOk s) (hc : s.cell = s.cfg.n) :
    bytesPushed s = 3 * s.cfg.n := by
  obtain ⟨-, -, -, hgreen⟩ := h
  rw [bytesPushed, hgreen hc, hc]
  rfl

/-- The converter is never past the last cell (R36 (h)). -/
theorem bytesPushed_le {s : State} (h : EngineOk s) : bytesPushed s ≤ 3 * s.cfg.n := by
  obtain ⟨-, -, hcell, -⟩ := id h
  rcases hcell.lt_or_eq with hlt | heq
  · exact (bytesPushed_lt hlt).le
  · exact (bytesPushed_eq_of_cell_eq h heq).le

/-! ### A queue that lasts is a queue that is fed -/

/-- Before the first window, with the queue empty, nothing of the frame has been pushed (R169). -/
theorem SendsFrame.bytesPushed_eq_zero {s : State} (h : SendsFrame s) (hm : s.mode = .frame)
    (hs : s.shifting = false) (hq : s.q = []) : bytesPushed s = 0 := by
  obtain ⟨-, -, -, hoff⟩ := h hm
  simpa [bytesLoaded, hq] using hoff hs

theorem inFrame_of_queueFed {s : State} (h : s.Inv) (hsend : SendsFrame s) (hfed : QueueFed s)
    (hm : s.mode = .frame) : InFrame s := by
  obtain ⟨⟨hn, -⟩, -, -, -, -, -, heng, -, -⟩ := h
  obtain ⟨-, hwindow, hcell, -⟩ := id heng
  refine ⟨hwindow, bytesPushed_le heng, fun hq => ⟨fun hs => ?_, fun hend => ?_⟩⟩
  · refine bytesPushed_eq_of_cell_eq heng (hcell.eq_of_not_lt fun hlt => ?_)
    simp [(hfed hm hq hlt).1] at hs
  · by_contra hs
    have h0 := SendsFrame.bytesPushed_eq_zero hsend hm (by simpa using hs) hq
    omega

theorem queueFed_of_inFrame {s : State} (hsend : SendsFrame s) (hf : s.mode = .frame → InFrame s) : QueueFed s := by
  intro hm hq hlt
  obtain ⟨-, -, hlast⟩ := hf hm
  have hs : s.shifting = false := by
    by_contra hs
    exact (bytesPushed_lt hlt).ne ((hlast hq).1 (by simpa using hs))
  exact ⟨hs, SendsFrame.bytesPushed_eq_zero hsend hm hs hq⟩

/-- What a command in progress keeps is in the invariant, but for what a frame adds. -/
theorem inCommand_of_inv {s : State} (h : s.Inv) (hf : s.mode = .frame → InFrame s) : InCommand s := by
  obtain ⟨hv, ⟨hwf, -⟩, -, ⟨-, hgap⟩, -, -, -, ⟨hclr, -⟩, -⟩ := h
  exact ⟨hv, hwf, fun _ => hclr, fun hm => (hgap hm).1, hf⟩

/-- An edge leaves `FRAME` within a frame in progress or with one just accepted. -/
theorem step_inCommand_of_frame {s u : State} (h : s.Inv) (hc : InCommand s) (hstep : step s = .next u)
    (hm : u.mode = .frame) : InCommand u := by
  obtain ⟨-, t, ht, rfl⟩ := edgeCase_of_step hstep
  rcases ht.frame_cases hm with hs | ⟨hcmd, -⟩
  · have hr := ht.rst_eq_false (by simp [show t.mode = .frame from hm])
    obtain ⟨v, hv, hadv⟩ := step_advances hc (by simp [hs]) hr
    cases hv.symm.trans hstep
    exact hadv.inCommand
  · obtain ⟨ha, -⟩ := (commandAt_eq_some_iff _ _).1 hcmd
    obtain ⟨v, hv, hcomp⟩ := step_completes h ha
    cases hv.symm.trans hstep
    exact hcomp.inCommand

/-- Settles O31: the bytes stay in their places, and the frame that goes on has a queue that lasts. -/
theorem frameContentKept : Obligations.FrameContentKept := by
  intro s t h hsend hfed hstep
  have hframe := inFrame_of_queueFed h hsend hfed
  have hkept := step_sendsFrame h hframe hsend hstep
  exact ⟨hkept, queueFed_of_inFrame hkept fun hm =>
    (step_inCommand_of_frame h (inCommand_of_inv h hframe) hstep hm).frame hm⟩

end Sys2Proof.Machine
end

section
/-! One `FRAME` edge (42_transmit_engine.md R163 to R166): what it does to the symbol on the wire, to the queue and to
the mode, and the table of R161. -/

namespace Sys2Proof.Machine

/-! ### The serializer, condition by condition -/

section Serializer

variable {s : State}

theorem serializer_window (hs : s.shifting = true) (ht : s.tcnt < s.cfg.symTicks - 1) :
    serializerLoad (serializerAdvance s) = { s with tcnt := s.tcnt + 1 } := by
  simp [serializerAdvance, serializerLoad, hs, ht]

theorem serializer_shift (h : SymbolEnds s) (hn : 1 < s.nbit) :
    serializerLoad (serializerAdvance s) = { s with tcnt := 0, sr := s.sr <<< 1, nbit := s.nbit - 1 } := by
  obtain ⟨hs, ht⟩ := h
  simp [serializerAdvance, serializerLoad, hs, ht, hn]

theorem serializer_load (h : Loads s) : ∃ byte rest, s.q = byte :: rest ∧
    serializerLoad (serializerAdvance s) =
      { s with sr := byte, q := rest, nbit := 8, tcnt := 0, shifting := true } := by
  obtain ⟨hfree, hq⟩ := h
  obtain ⟨byte, rest, hq⟩ := List.exists_cons_of_ne_nil hq
  refine ⟨byte, rest, hq, ?_⟩
  rcases hfree with hs | ⟨⟨hs, ht⟩, hn⟩
  · simp [serializerAdvance, serializerLoad, hs, hq]
  · simp [serializerAdvance, serializerLoad, hs, ht, hn, hq]

theorem serializer_stop (h : SymbolEnds s) (hn : s.nbit = 1) (hq : s.q = []) :
    serializerLoad (serializerAdvance s) = { s with tcnt := 0, shifting := false, nbit := 0, sr := 0 } := by
  obtain ⟨hs, ht⟩ := h
  simp [serializerAdvance, serializerLoad, hs, ht, hn, hq]

theorem serializer_rest (hs : s.shifting = false) (hq : s.q = []) : serializerLoad (serializerAdvance s) = s := by
  simp [serializerAdvance, serializerLoad, hs, hq]

theorem loads_of_last (hlast : s.shifting = true → SymbolEnds s ∧ s.nbit = 1) (hq : s.q ≠ []) : Loads s :=
  ⟨or_iff_not_imp_left.2 fun hs => hlast (by simpa using hs), hq⟩

/-- R164: the serializer takes the head of the queue at a load, and leaves the queue alone otherwise. -/
theorem serializer_q (hw : WindowOk s) :
    (Loads s → (serializerLoad (serializerAdvance s)).q = s.q.tail) ∧
    (¬ Loads s → (serializerLoad (serializerAdvance s)).q = s.q) := by
  refine ⟨fun h => ?_, fun h => ?_⟩
  · obtain ⟨byte, rest, hq, he⟩ := serializer_load h
    rw [he, hq, List.tail_cons]
  · rcases serializer_cases hw with ⟨-, -, he⟩ | ⟨-, -, he⟩ | ⟨byte, rest, hlast, hq, -⟩ | ⟨-, -, -, he⟩ | ⟨-, -, he⟩
    case inr.inr.inl =>
      exact absurd (loads_of_last hlast (by simp [hq])) h
    all_goals rw [he]

/-- R163, R164: the serializer touches its registers and the queue alone. -/
theorem serializer_eq (s : State) : ∃ q shifting sr nbit tcnt, serializerLoad (serializerAdvance s) =
    { s with q := q, shifting := shifting, sr := sr, nbit := nbit, tcnt := tcnt } := by
  unfold serializerLoad serializerAdvance
  split_ifs <;> split <;> exact ⟨_, _, _, _, _, rfl⟩

end Serializer

/-! ### The converter and the end of the frame -/

/-- The converter can push a byte (R165). -/
abbrev HasRoom (s : State) : Prop := s.cell < s.cfg.n ∧ s.q.length < s.cfg.qDepth

/-- R165: the converter appends the frame's byte at its position and moves on by one, or does nothing. -/
theorem converterPush_cases (s : State) :
    (HasRoom s ∧ ∃ cell chan, 3 * cell + chan.code = bytesPushed s + 1 ∧ converterPush s = .next
      { s with q := s.q ++ [frameByte s.pix (bytesPushed s)], cell := cell, chan := chan }) ∨
    (¬ HasRoom s ∧ converterPush s = .next s) := by
  rw [converterPush_eq, ← frameByte_bytesPushed]
  by_cases hroom : HasRoom s
  · obtain ⟨cell, chan, he, hpos⟩ := converterNext_eq { s with q := s.q ++ [frameByte s.pix (bytesPushed s)] }
    exact .inl ⟨hroom, cell, chan, hpos, by rw [if_pos hroom, he]⟩
  · exact .inr ⟨hroom, by rw [if_neg hroom]⟩

/-- R166: the check touches nothing but the mode and the gap's counter. -/
theorem frameEndCheck_eq (s : State) : ∃ mode gapCnt, frameEndCheck s = { s with mode := mode, gapCnt := gapCnt } := by
  unfold frameEndCheck
  split
  · exact ⟨_, _, rfl⟩
  · exact ⟨_, _, rfl⟩

section FrameArm

variable {s t v : State} (ht : frameArm s = .next t) (he : serializerLoad (serializerAdvance s) = v)

include ht he

/-- With a window on the wire, or a byte to push, the frame goes on, and what is left of the edge touches the queue
and the converter alone. -/
theorem frameArm_goes_on (hmore : v.shifting = true ∨ HasRoom v) :
    ∃ q cell chan, t = { v with q := q, cell := cell, chan := chan } := by
  subst he
  obtain ⟨u, hu, hf⟩ := frameArm_eq s
  cases hf.symm.trans ht
  rcases converterPush_cases (serializerLoad (serializerAdvance s)) with ⟨-, cell, chan, -, he⟩ | ⟨hfull, he⟩
  · cases he.symm.trans hu
    exact ⟨_, cell, chan, frameEndCheck_of_not_end fun _ => by simp⟩
  · cases he.symm.trans hu
    have hs := hmore.resolve_right hfull
    exact ⟨_, _, _, frameEndCheck_of_not_end (by simp [hs])⟩

/-- With nothing on the wire, queued or left to push, the frame is over (R166). -/
theorem frameArm_ends (hs : v.shifting = false) (hq : v.q = []) (hcell : v.cell = v.cfg.n) :
    t = { v with mode := .gap, gapCnt := v.cfg.latchTicks } := by
  subst he
  obtain ⟨u, hu, hf⟩ := frameArm_eq s
  cases hf.symm.trans ht
  rcases converterPush_cases (serializerLoad (serializerAdvance s)) with ⟨⟨hlt, -⟩, -⟩ | ⟨-, he⟩
  · exact absurd hcell hlt.ne
  · cases he.symm.trans hu
    exact if_pos ⟨hs, hq, hcell⟩

end FrameArm

/-! ### The edge -/

/-- Settles O24: in each case of the serializer what is left of the edge either touches the queue and the converter
alone, or ends the frame. -/
theorem serializerEdge : Obligations.SerializerEdge := by
  intro s h hm hr
  obtain ⟨hv, -, -, -, -, -, ⟨-, -, hle, -⟩, -⟩ := h
  obtain ⟨-, -, -, -, -, -, -, hdepth⟩ := id hv
  obtain ⟨u, -, ht⟩ := frameArm_eq (clearResponse s)
  obtain ⟨hflags, hrv, -⟩ := frameArm_engineOnly ht
  have hroom {q : List Byte} (hq : q = []) : q.length < s.cfg.qDepth := by rw [hq]; exact hdepth
  refine ⟨_, step_of_clockEdge hv ((clockEdge_of_frame hr hm).trans ht), fun a => ?_, hflags, hrv,
    fun hs hw => ?_, fun hsym hn => ?_, fun hload => ?_, fun ⟨hsym, hn, hq, hcell⟩ => ?_,
    fun hsym hn hq hcell => ?_, fun hs hq => ?_⟩
  · rw [afterEdge_pix, frameArm_pix ht]
    rfl
  · obtain ⟨q, cell, chan, he⟩ := frameArm_goes_on ht (serializer_window hs hw) (.inl hs)
    rw [he]
    exact ⟨hm, hs, rfl, rfl, rfl⟩
  · obtain ⟨q, cell, chan, he⟩ := frameArm_goes_on ht (serializer_shift hsym hn) (.inl hsym.1)
    rw [he]
    exact ⟨hm, hsym.1, rfl, rfl, rfl⟩
  · obtain ⟨byte, rest, hq, hser⟩ := serializer_load (s := clearResponse s) hload
    obtain ⟨q, cell, chan, he⟩ := frameArm_goes_on ht hser (.inl rfl)
    rw [he]
    exact ⟨byte, rest, hq, hm, rfl, rfl, rfl, rfl⟩
  · rw [frameArm_ends ht (serializer_stop hsym hn hq) rfl hq hcell]
    exact ⟨rfl, rfl, rfl, rfl, rfl, rfl⟩
  · obtain ⟨q, cell, chan, he⟩ := frameArm_goes_on ht (serializer_stop hsym hn hq) (.inr ⟨hcell, hroom hq⟩)
    rw [he]
    exact ⟨hm, rfl, rfl, rfl, rfl⟩
  · rcases hle.lt_or_eq with hlt | heq
    · obtain ⟨q, cell, chan, he⟩ := frameArm_goes_on ht (serializer_rest hs hq) (.inr ⟨hlt, hroom hq⟩)
      rw [he]
      exact ⟨⟨rfl, rfl, rfl, rfl⟩, fun _ => hm, fun heq => absurd heq hlt.ne⟩
    · rw [frameArm_ends ht (serializer_rest hs hq) hs hq heq]
      exact ⟨⟨rfl, rfl, rfl, rfl⟩, fun hlt => absurd heq hlt.ne, fun _ => ⟨rfl, rfl⟩⟩

/-- Settles O25: the serializer's sub-steps give the queue after the load, the converter does the rest, and the check
of the frame's end leaves both alone. -/
theorem converterEdge : Obligations.ConverterEdge := by
  intro s t h hm hr hstep
  obtain ⟨-, -, -, -, -, -, ⟨-, hw, -⟩, -⟩ := h
  obtain ⟨-, w, hedge, rfl⟩ := step_eq_next hstep
  rw [clockEdge_of_frame hr hm] at hedge
  obtain ⟨u, hu, hf⟩ := frameArm_eq (clearResponse s)
  cases hf.symm.trans hedge
  obtain ⟨mode, gapCnt, hcheck⟩ := frameEndCheck_eq u
  obtain ⟨hload, hkeep⟩ := serializer_q (s := clearResponse s) hw
  obtain ⟨q, shifting, sr, nbit, tcnt, he⟩ := serializer_eq (clearResponse s)
  rw [he] at hload hkeep hu
  rw [hcheck]
  refine ⟨q, hload, hkeep, ?_⟩
  rcases converterPush_cases _ with ⟨hroom, cell, chan, hpos, hpush⟩ | ⟨hfull, hpush⟩
  · cases hpush.symm.trans hu
    exact ⟨fun _ => ⟨rfl, hpos⟩, fun hfull => absurd hroom hfull⟩
  · cases hpush.symm.trans hu
    exact ⟨fun hroom => absurd hroom hfull, fun _ => ⟨rfl, rfl⟩⟩

/-! ### The mode -/

/-- The rows of R161 for an accepted command. -/
theorem exec_nextMode {i : Instr} {s t : State} (hm : s.mode = .idle) (h : exec i s = .next t) :
    t.mode = if i = .init ∧ s.initd = false ∧ s.pins.chanAvail = true then .gap
      else if i = .write ∧ s.initd = true then .frame
      else if i = .clear ∧ 2 ≤ s.cfg.n then .clr
      else .idle := by
  cases i with
  | init => rcases execInit_eq_next h with ⟨hi, rfl⟩ | ⟨hi, ha, rfl⟩ | ⟨hi, ha, rfl⟩ <;> simp [*]
  | write => rcases execWrite_eq_next h with ⟨hi, rfl⟩ | ⟨hi, rfl⟩ <;> simp [*]
  | setPix idx r g b => rcases execSetPix_eq_next h with ⟨-, rfl⟩ | ⟨-, rfl⟩ <;> simp [hm]
  | clear =>
    obtain ⟨h0, ⟨h1, rfl⟩ | ⟨h1, rfl⟩⟩ := execClear_eq_next h
    · simp [hm, h1]
    · simp [show 2 ≤ s.cfg.n by omega]
  | get idx => rcases execGet_eq_next h with ⟨-, rfl⟩ | ⟨-, rfl⟩ <;> simp [hm]
  | stat => cases execStat_eq_next h; simp [hm]

theorem nextMode_of_commandAt {s : State} {i : Instr} (hr : s.pins.rst = false) (hc : commandAt s = some i) :
    nextMode s = if i = .init ∧ s.initd = false ∧ s.pins.chanAvail = true then .gap
      else if i = .write ∧ s.initd = true then .frame
      else if i = .clear ∧ 2 ≤ s.cfg.n then .clr
      else .idle := by
  simp [nextMode, hr, mode_eq_idle_of_commandAt hc, hc]

theorem nextMode_of_no_command {s : State} (hm : s.mode = .idle) (hc : commandAt s = none) : nextMode s = .idle := by
  simp [nextMode, hm, hc]

theorem nextMode_of_clr {s : State} (hr : s.pins.rst = false) (hm : s.mode = .clr) :
    nextMode s = if s.clrIdx = s.cfg.n - 1 then .idle else .clr := by
  simp [nextMode, hr, hm]

theorem nextMode_of_frame {s : State} (hr : s.pins.rst = false) (hm : s.mode = .frame) :
    nextMode s = if FrameEnds s then .gap else .frame := by
  simp [nextMode, hr, hm]

theorem nextMode_of_gap {s : State} (hr : s.pins.rst = false) (hm : s.mode = .gap) :
    nextMode s = if s.gapCnt = 1 then .idle else .gap := by
  simp [nextMode, hr, hm]

/-- The rows of R161 for a frame: it goes on unless its last window ends. -/
theorem step_mode_of_frame {s t : State} (h : s.Inv) (hsend : SendsFrame s) (hm : s.mode = .frame)
    (hr : s.pins.rst = false) (hstep : step s = .next t) : t.mode = if FrameEnds s then .gap else .frame := by
  obtain ⟨⟨hn, -⟩, -, -, -, -, -, ⟨-, hw, hle, -⟩, -⟩ := id h
  obtain ⟨u, hu, -, -, -, hwindow, hshift, hload, hend, hstarved, hrest⟩ := serializerEdge s h hm hr
  cases hu.symm.trans hstep
  by_cases hf : FrameEnds s
  · rw [if_pos hf]
    exact (hend hf).1
  rw [if_neg hf]
  rcases serializer_cases hw with ⟨hs, ht, -⟩ | ⟨hsym, hb, -⟩ | ⟨byte, rest, hlast, hq, -⟩ | ⟨hsym, hb, hq, -⟩ |
    ⟨hs, hq, -⟩
  · exact (hwindow hs ht).1
  · exact (hshift hsym hb).1
  · obtain ⟨-, -, -, hmode, -⟩ := hload (loads_of_last hlast (by simp [hq]))
    exact hmode
  · exact (hstarved hsym hb hq (hle.lt_of_ne fun hcell => hf ⟨hsym, hb, hq, hcell⟩)).1
  · have h0 := SendsFrame.bytesPushed_eq_zero hsend hm hs hq
    obtain ⟨-, hgo, -⟩ := hrest hs hq
    exact hgo (by unfold bytesPushed at h0; omega)

/-- Settles O34: row by row, a frame by the case of its serializer. -/
theorem modeTransitions : Obligations.ModeTransitions := by
  intro s t h hsend hstep
  obtain ⟨-, -, -, ⟨-, hgap⟩, -⟩ := id h
  obtain ⟨-, u, hedge, rfl⟩ := edgeCase_of_step hstep
  rw [afterEdge_mode]
  cases hedge with
  | reset hr => simp [nextMode, hr]
  | command hr hc hu =>
    rw [nextMode_of_commandAt hr hc]
    exact exec_nextMode (s := clearResponse s) (mode_eq_idle_of_commandAt hc) hu
  | illegal hr ha hd =>
    have hm := mode_eq_idle_of_accepts ha
    rw [nextMode_of_no_command hm (by simp [commandAt, hd])]
    exact (raiseFault_mode _ _).trans hm
  | rest hr hm ha =>
    rw [nextMode_of_no_command hm (commandAt_eq_none_of_not_accepts ha)]
    exact hm
  | clr hr hm hu =>
    rw [nextMode_of_clr hr hm]
    obtain ⟨-, ⟨hlast, rfl⟩ | ⟨hmore, rfl⟩⟩ := clrArm_eq_next hu
    · exact (if_pos hlast).symm
    · exact hm.trans (if_neg hmore).symm
  | frame hr hm hu =>
    rw [nextMode_of_frame hr hm]
    exact (afterEdge_mode _ _).symm.trans (step_mode_of_frame h hsend hm hr hstep)
  | gap hr hm =>
    obtain ⟨h1, -⟩ := hgap hm
    rw [nextMode_of_gap hr hm]
    rcases gapArm_cases (clearResponse s) with ⟨hlast, he⟩ | ⟨hmore, he⟩ <;> rw [he]
    · have hone : s.gapCnt = 1 := Nat.le_antisymm (Nat.sub_eq_zero_iff_le.1 hlast) h1
      exact (if_pos hone).symm
    · have hne : s.gapCnt ≠ 1 := fun hone => hmore (Nat.sub_eq_zero_of_le hone.le)
      exact hm.trans (if_neg hne).symm

end Sys2Proof.Machine
end

section
/-! Runs of the engine (42_transmit_engine.md R167, R168): a symbol window and a gap, period by period. -/

namespace Sys2Proof.Machine

/-- What each edge of a run without reset carries from one period's number to the next holds after any of its edges. -/
theorem run_of_steps {P : Nat → State → Prop} {n : Nat}
    (hP : ∀ k u, k < n → P k u → u.pins.rst = false → ∃ v, step u = .next v ∧ P (k + 1) v)
    {i j : Nat} {s : State} (h : P i s) (hij : i + j ≤ n) (hr : NoReset j s) :
    ∃ u, run j s = .next u ∧ P (i + j) u := by
  induction j generalizing i s with
  | zero => exact ⟨s, rfl, h⟩
  | succ j ih =>
    obtain ⟨v, hv, hnext⟩ := hP i s (by omega) h hr.rst_eq_false
    rw [run_succ hv, ← Nat.add_assoc, Nat.add_right_comm]
    exact ih hnext (by omega) (hr.tail hv)

/-! ### A symbol window -/

/-- Period `k` of the window that carries the first bit of `sr` (R168). -/
structure InWindow (c : Config) (sr : Byte) (k : Nat) (u : State) : Prop where
  cfg : u.cfg = c
  inv : u.Inv
  mode : u.mode = .frame
  shifting : u.shifting = true
  tcnt : u.tcnt = k
  sr : u.sr = sr

theorem InWindow.step {c : Config} {sr : Byte} {k : Nat} {u : State} (h : InWindow c sr k u)
    (hk : k < c.symTicks - 1) (hr : u.pins.rst = false) : ∃ v, step u = .next v ∧ InWindow c sr (k + 1) v := by
  obtain ⟨rfl, hinv, hm, hs, rfl, rfl⟩ := h
  obtain ⟨v, hv, -, -, -, hwindow, -⟩ := serializerEdge u hinv hm hr
  obtain ⟨hmode, hshift, htcnt, hsr, -⟩ := hwindow hs hk
  exact ⟨v, hv, parametersFixed u v hv, stepKeepsInvariant u v hinv hv, hmode, hshift, htcnt, hsr⟩

/-- R168: the level in a period of a window. -/
theorem InWindow.level {c : Config} {sr : Byte} {k : Nat} {u : State} (h : InWindow c sr k u) :
    (dout u = true ↔ k < hiTicks c sr.msb) ∧ line u = symbolLevel c sr.msb k := by
  obtain ⟨rfl, ⟨-, -, -, -, ⟨hinitd, -⟩, -⟩, hm, hs, rfl, rfl⟩ := h
  exact ⟨by simp [dout, hs], line_of_shifting (hinitd (.inl hm)) hs⟩

/-- Settles O26: the window goes on from its first period to its last, at the level of the period. -/
theorem symbolTiming : Obligations.SymbolTiming := by
  intro s h hm hs ht hr k hk
  have hstart : InWindow s.cfg s.sr 0 s := ⟨rfl, h, hm, hs, ht, rfl⟩
  obtain ⟨u, hu, hwindow⟩ := run_of_steps (fun _ _ hk h => h.step hk) hstart (by omega) (hr.mono hk.le)
  rw [Nat.zero_add] at hwindow
  exact ⟨u, hu, hwindow.mode, hwindow.tcnt, hwindow.sr, hwindow.level⟩

/-! ### A gap -/

/-- `k` edges into a gap of `len` that ends with its response (R167). -/
structure InGap (len k : Nat) (u : State) : Prop where
  inv : u.Inv
  initd : u.initd = true
  count : u.gapCnt + k = len
  mode : u.mode = if k < len then .gap else .idle
  answers : 1 ≤ k → u.rspv = decide (k = len) ∧ u.rspd = 0

theorem InGap.step {len k : Nat} {u : State} (h : InGap len k u) (hk : k < len) (hr : u.pins.rst = false) :
    ∃ v, step u = .next v ∧ InGap len (k + 1) v := by
  obtain ⟨hinv, hinitd, hcount, hmode, -⟩ := h
  have hm : u.mode = .gap := hmode.trans (if_pos hk)
  have hedge : clockEdge u = .next (gapArm (clearResponse u)) := by
    rw [clockEdge_of_rst_eq_false hr, modeArm, clearResponse_mode, hm]
  have hstep := step_of_clockEdge hinv.1 hedge
  have hkept := stepKeepsInvariant u _ hinv hstep
  refine ⟨_, hstep, ?_⟩
  rcases gapArm_cases (clearResponse u) with ⟨hlast, he⟩ | ⟨hmore, he⟩ <;> rw [he] at hkept ⊢
  · have hend : k + 1 = len := by
      rw [clearResponse_gapCnt] at hlast
      omega
    exact ⟨hkept, hinitd, (Nat.zero_add _).trans hend, by simp [hend], fun _ => ⟨by simp [hend], rfl⟩⟩
  · rw [clearResponse_gapCnt] at hmore
    have hlt : k + 1 < len := by omega
    refine ⟨hkept, hinitd, ?_, hm.trans (if_pos hlt).symm, fun _ => ⟨by simp [hlt.ne], rfl⟩⟩
    rw [afterEdge_gapCnt]
    simp only [clearResponse_gapCnt]
    omega

/-- R167: the line stays low through a gap. -/
theorem InGap.line_eq {len k : Nat} {u : State} (h : InGap len k u) : line u = .l := by
  have hm : u.mode ≠ .frame := by
    rw [h.mode]
    split <;> simp
  rw [OffFrame.line_eq ⟨h.inv, hm⟩, if_pos h.initd]

/-- Settles O27: the gap counts down to its response. -/
theorem gapHoldsLineLow : Obligations.GapHoldsLineLow := by
  intro s h hm hr
  obtain ⟨-, -, -, ⟨-, hgap⟩, ⟨hinitd, -⟩, -⟩ := id h
  obtain ⟨h1, -⟩ := hgap hm
  have hstart : InGap s.gapCnt 0 s := ⟨h, hinitd (.inr hm), rfl, hm.trans (if_pos h1).symm, by simp⟩
  have hrun {k : Nat} (hk : k ≤ s.gapCnt) : ∃ u, run k s = .next u ∧ InGap s.gapCnt k u := by
    simpa using run_of_steps (fun _ _ hk h => h.step hk) hstart (by simpa using hk) (hr.mono hk)
  refine ⟨fun k hk => ?_, ?_⟩
  · obtain ⟨u, hu, hg⟩ := hrun hk.le
    have hmode : u.mode = .gap := hg.mode.trans (if_pos hk)
    exact ⟨u, hu, hmode, Nat.eq_sub_of_add_eq hg.count, hg.line_eq, by simp [cmdReady, hmode],
      fun h1 => by simp [(hg.answers h1).1, hk.ne]⟩
  · obtain ⟨u, hu, hg⟩ := hrun le_rfl
    obtain ⟨hrv, hrd⟩ := hg.answers h1
    exact ⟨u, hu, by simp [hg.mode], by simpa using hg.count, hg.line_eq, by simpa using hrv, hrd⟩

end Sys2Proof.Machine
end

section
/-! The edge of the whole block (42_transmit_engine.md R160): it accepts or rests in `IDLE`, never stops, and sees the
ports only where it accepts. -/

namespace Sys2Proof.Machine

/-! ### An edge in `IDLE` -/

/-- Settles O8: the accepting edge executes the decoded command. -/
theorem stepRunsDecodedCommand : Obligations.StepRunsDecodedCommand := by
  intro s i hv ha hd
  rw [step, machineEdge, if_pos hv, clockEdge_of_accepts ha, execute, hd, ha]

/-- Settles O11: the `IDLE` arm goes on with the old response cleared. -/
theorem idleEdgeChangesNothing : Obligations.IdleEdgeChangesNothing := by
  intro s hv hm hr ha
  have hedge : clockEdge s = .next (clearResponse s) := by
    rw [clockEdge_of_rst_eq_false hr, modeArm, clearResponse_mode, hm]
    exact idleArm_of_not_accepts hr hm ha
  rw [step_of_clockEdge hv hedge, ha]
  rfl

/-! ### Every edge -/

/-- Settles O30: a reset edge, and each arm where its mode has the invariant, answers a next state. -/
theorem stepNeverStops : Obligations.StepNeverStops := by
  intro s h
  rcases hr : s.pins.rst with _ | _
  · by_cases hframe : s.mode = .frame
    · obtain ⟨t, ht, -⟩ := serializerEdge s h hframe hr
      exact ⟨t, ht⟩
    by_cases hidle : s.mode = .idle
    · rcases ha : accepts s with _ | _
      · exact ⟨_, idleEdgeChangesNothing s h.1 hidle hr ha⟩
      · obtain ⟨t, ht, -⟩ := step_completes h ha
        exact ⟨t, ht⟩
    · have hc : InCommand s := inCommand_of_inv h fun hm => absurd hm hframe
      obtain ⟨t, ht, -⟩ := step_advances hc hidle hr
      exact ⟨t, ht⟩
  · exact ⟨_, step_of_rst h.1 hr⟩

/-! ### The ports while a command is in progress -/

/-- The same machine with other levels on its ports. -/
def withPins (p : Pins) (s : State) : State := { s with pins := p }

@[simp] theorem withPins_mode (p : Pins) (s : State) : (withPins p s).mode = s.mode := rfl

section Pins

variable (p : Pins) (s : State)

theorem serializerAdvance_withPins : serializerAdvance (withPins p s) = withPins p (serializerAdvance s) := by
  unfold serializerAdvance withPins
  dsimp only
  split_ifs <;> rfl

theorem serializerLoad_withPins : serializerLoad (withPins p s) = withPins p (serializerLoad s) := by
  unfold serializerLoad withPins
  dsimp only
  split <;> rfl

theorem converterNext_withPins : converterNext (withPins p s) = withPins p (converterNext s) := by
  unfold converterNext withPins
  dsimp only
  split <;> rfl

theorem frameEndCheck_withPins : frameEndCheck (withPins p s) = withPins p (frameEndCheck s) := by
  unfold frameEndCheck withPins
  dsimp only
  split <;> rfl

theorem gapArm_withPins : gapArm (withPins p s) = withPins p (gapArm s) := by
  unfold gapArm withPins
  dsimp only
  split <;> rfl

variable {s} {t : State}

theorem converterPush_withPins (h : converterPush s = .next t) :
    converterPush (withPins p s) = .next (withPins p t) := by
  rw [converterPush_eq] at h ⊢
  cases h
  by_cases hroom : HasRoom s
  · rw [if_pos hroom, ← converterNext_withPins]
    exact congrArg _ (if_pos hroom)
  · rw [if_neg hroom]
    exact congrArg _ (if_neg hroom)

theorem frameArm_withPins (h : frameArm s = .next t) : frameArm (withPins p s) = .next (withPins p t) := by
  obtain ⟨u, hu, hf⟩ := frameArm_eq s
  cases hf.symm.trans h
  rw [frameArm, serializerAdvance_withPins, serializerLoad_withPins, converterPush_withPins p hu, onNext_next,
    frameEndCheck_withPins]

theorem clrArm_withPins (h : clrArm s = .next t) : clrArm (withPins p s) = .next (withPins p t) := by
  obtain ⟨hlt, hcase⟩ := clrArm_eq_next h
  have hstore := storePixel_of_lt (s := withPins p s) hlt .black
  rw [clrArm]
  rcases hcase with ⟨hlast, rfl⟩ | ⟨hmore, rfl⟩
  · exact (congrArg (onNext · _) hstore).trans (if_pos hlast)
  · exact (congrArg (onNext · _) hstore).trans (if_neg hmore)

/-- The arms of a command in progress do not see the ports. -/
theorem modeArm_withPins (hm : s.mode ≠ .idle) (h : modeArm s = .next t) :
    modeArm (withPins p s) = .next (withPins p t) := by
  unfold modeArm at h ⊢
  rw [withPins_mode]
  split at h
  case h_1 hi => exact absurd hi hm
  case h_2 hc => exact clrArm_withPins p h
  case h_3 hf => exact frameArm_withPins p h
  case h_4 hg =>
    cases h
    exact congrArg _ (gapArm_withPins p s)

end Pins

/-- Settles O42: neither a reset nor an arm of a command in progress sees the command port or `chan_avail`. -/
theorem busyIgnoresPorts : Obligations.BusyIgnoresPorts := by
  intro s t p hm hp h
  rcases hr : s.pins.rst with _ | _
  · rw [clockEdge_of_rst_eq_false hr] at h
    rw [clockEdge_of_rst_eq_false (by simpa [hr] using hp)]
    exact modeArm_withPins (s := clearResponse s) p hm h
  · rw [clockEdge, if_pos hr] at h
    cases h
    exact if_pos (hp.trans hr)

end Sys2Proof.Machine
end

section
/-! The depth of the queue (42_transmit_engine.md R169, R174): what a `WRITE` shows in a period is a function of the
store and of the other parameters. -/

namespace Sys2Proof.Machine

theorem run_inv {k : Nat} {s u : State} (h : s.Inv) (hu : run k s = .next u) : u.Inv := by
  induction k generalizing s with
  | zero => cases hu; exact h
  | succ k ih =>
    obtain ⟨t, ht, hu⟩ := onNext_eq_next hu
    exact ih (stepKeepsInvariant s t h ht) hu

/-- What a `WRITE` accepted with the configuration `c` shows in period `k` after its acceptance (R145). -/
structure ShowsWrite (c : Config) (m : Memory) (k : Nat) (u : State) : Prop where
  line : line u = writeLevel c m k
  answers : u.rspv = decide (k = writeTicks c)
  rspd : u.rspd = 0
  ready : cmdReady u = decide (k = writeTicks c)

theorem run_showsWrite {s : State} (h : s.Inv) (hc : commandAt s = some .write) (hi : s.initd = true)
    (hr : NoReset (writeTicks s.cfg + 1) s) {k : Nat} (hk : k ≤ writeTicks s.cfg) :
    ∃ u, run (k + 1) s = .next u ∧ ShowsWrite s.cfg s.pix k u := by
  obtain ⟨u, hu, hline, -, hrv, hready⟩ := writeWaveform s h hc hi hr k hk
  refine ⟨u, hu, hline, hrv, ?_, hready⟩
  obtain ⟨-, -, -, -, -, ⟨-, hrd⟩, -⟩ := run_inv h hu
  rcases hk.lt_or_eq with hlt | rfl
  · exact hrd (hrv.trans (decide_eq_false hlt.ne))
  · obtain ⟨-, v, hv, -, hrd, -⟩ := writeResponds s h hc hi hr
    cases hv.symm.trans hu
    exact hrd

/-- A queue that holds nothing has any depth. -/
theorem inv_withQDepth {s : State} (h : s.Inv) (hm : s.mode = .idle) {d : Nat} (hd : 1 ≤ d) :
    State.Inv { s with cfg := { s.cfg with qDepth := d } } := by
  obtain ⟨⟨h1, h2, h3, h4, h5, h6, h7, -⟩, hp, hrest, hg, hf, hrsp, ⟨-, hw⟩, hc, hch⟩ := h
  obtain ⟨hq, -⟩ := hrest.1 (by simp [hm])
  exact ⟨⟨h1, h2, h3, h4, h5, h6, h7, hd⟩, hp, hrest, hg, hf, hrsp, ⟨by simp [hq], hw⟩, hc, hch⟩

/-- Settles O48: both runs show the `WRITE` of the same store with the same ticks. -/
theorem queueDepthUnseen : Obligations.QueueDepthUnseen := by
  intro s d h hc hi hd hr hr' k hk
  obtain ⟨u, hu, hline, hrv, hrd, hready⟩ := run_showsWrite h hc hi hr hk
  obtain ⟨u', hu', hline', hrv', hrd', hready'⟩ :=
    run_showsWrite (inv_withQDepth h (mode_eq_idle_of_commandAt hc) hd) hc hi hr' hk
  exact ⟨u, u', hu, hu', hline.trans hline'.symm, hrv.trans hrv'.symm, hrd.trans hrd'.symm,
    hready.trans hready'.symm⟩

end Sys2Proof.Machine
end

section
/-! The chain as observer (43_wire_protocol_observer.md R206 to R211), one equation per kind of period, and the
waveforms that it gives no meaning. -/

namespace Sys2Proof.Machine

/-! ### One period, by where the observer stands -/

section Observe

variable {cfg : Config} {c : Chain}

theorem observe_on_high (hw : c.watch = .on) : observe cfg .h c = observeHigh cfg c := by
  simp [observe, hw, observeDriven]

theorem observe_on_low (hw : c.watch = .on) : observe cfg .l c = observeLow cfg c := by
  simp [observe, hw, observeDriven]

/-- The observation starts at the first driven period (log entry 10). -/
theorem observe_off_low (hw : c.watch = .off) : observe cfg .l c = observeLow cfg (restartWatch .on c) := by
  simp [observe, hw, observeDriven]

theorem observe_noMeaning (hw : c.watch = .noMeaning) {level : Line} (hl : level ≠ .z) :
    observe cfg level c = loseMeaning cfg c := by
  cases level with
  | h => simp [observe, hw]
  | l => simp [observe, hw]
  | z => exact absurd rfl hl

/-! ### A high period -/

/-- A run of `H` may open where no burst is in progress, or after an exact symbol (R211). -/
theorem observeHigh_opens (h0 : c.high = 0) (hopen : c.bits = [] ∨ symbolExact cfg c = true)
    (hlong : 1 ≤ cfg.longTicks) : observeHigh cfg c = { c with high := 1, low := 0 } := by
  rw [observeHigh, if_neg (by rcases hopen with h | h <;> simp [h]), if_neg (by omega), h0]

theorem observeHigh_refuses (h0 : c.high = 0) (hbits : c.bits ≠ []) (hex : symbolExact cfg c = false) :
    observeHigh cfg c = loseMeaning cfg c := if_pos ⟨h0, hbits, hex⟩

theorem observeHigh_goes_on (h0 : c.high ≠ 0) (hlt : c.high < cfg.longTicks) :
    observeHigh cfg c = { c with high := c.high + 1, low := 0 } := by
  rw [observeHigh, if_neg (by simp [h0]), if_neg (by omega)]

theorem observeHigh_too_long (h0 : c.high ≠ 0) (hle : cfg.longTicks ≤ c.high) :
    observeHigh cfg c = loseMeaning cfg c := by
  rw [observeHigh, if_neg (by simp [h0]), if_pos (by omega)]

/-! ### A low period -/

theorem observeLow_goes_on (h0 : c.high = 0) : observeLow cfg c = lowPeriod cfg c := if_pos h0

theorem observeLow_ends_pulse (h0 : c.high ≠ 0) (hlen : c.high = cfg.shortTicks ∨ c.high = cfg.longTicks) :
    observeLow cfg c = lowPeriod cfg (endPulse cfg c) := by
  rw [observeLow, if_neg h0, if_pos hlen]

theorem observeLow_bad_pulse (h0 : c.high ≠ 0) (hlen : ¬ (c.high = cfg.shortTicks ∨ c.high = cfg.longTicks)) :
    observeLow cfg c = loseMeaning cfg c := by
  rw [observeLow, if_neg h0, if_neg hlen]

@[simp] theorem lowPeriod_watch (cfg : Config) (c : Chain) : (lowPeriod cfg c).watch = c.watch := by
  unfold lowPeriod
  split <;> rfl

@[simp] theorem lowPeriod_high (cfg : Config) (c : Chain) : (lowPeriod cfg c).high = c.high := by
  unfold lowPeriod
  split <;> rfl

@[simp] theorem lowPeriod_low (cfg : Config) (c : Chain) : (lowPeriod cfg c).low = c.low + 1 := by
  unfold lowPeriod
  split <;> rfl

theorem lowPeriod_latches (h : c.low + 1 = cfg.latchTicks) :
    lowPeriod cfg c = { c with low := c.low + 1, shown := showBurst c.bits c.shown, bits := [] } := if_pos h

theorem lowPeriod_no_latch (h : c.low + 1 ≠ cfg.latchTicks) : lowPeriod cfg c = { c with low := c.low + 1 } :=
  if_neg h

/-! ### Out of tolerance -/

@[simp] theorem loseMeaning_watch (cfg : Config) (c : Chain) : (loseMeaning cfg c).watch = .noMeaning := rfl

/-- A driven period either leaves the observation on or loses the meaning (R211). -/
theorem observe_driven_cases (hw : c.watch ≠ .off) {level : Line} (hl : level ≠ .z) :
    (observe cfg level c).watch = .on ∨ observe cfg level c = loseMeaning cfg c := by
  cases hc : c.watch with
  | off => exact absurd hc hw
  | noMeaning => exact .inr (observe_noMeaning hc hl)
  | on =>
    cases level with
    | z => exact absurd rfl hl
    | h =>
      rw [observe_on_high hc]
      unfold observeHigh
      split_ifs
      exacts [.inr rfl, .inr rfl, .inl hc]
    | l =>
      rw [observe_on_low hc]
      unfold observeLow
      split_ifs
      exacts [.inl (by simp [hc]), .inl (by simp [hc, endPulse]), .inr rfl]

end Observe

/-- Settles O55: a rise asks the symbol before it, a run of `H` its own length, and whatever is not kept is lost. -/
theorem outOfToleranceHasNoMeaning : Obligations.OutOfToleranceHasNoMeaning := by
  intro cfg c hv
  obtain ⟨-, -, -, hshort, hlong, -⟩ := hv
  refine ⟨fun hw h0 hbits => ?_, fun hw h1 => ⟨?_, ?_⟩, fun hw level hl hoff => ?_,
    fun hw level hl => ?_, rfl⟩
  · rw [observe_on_high hw, ← symbolExact_iff]
    cases hex : symbolExact cfg c with
    | true => simp [observeHigh_opens h0 (.inr hex) (by omega), hw]
    | false => simp [observeHigh_refuses h0 hbits hex]
  · rw [observe_on_high hw]
    rcases Nat.lt_or_ge c.high cfg.longTicks with hlt | hge
    · simp [observeHigh_goes_on (Nat.ne_of_gt h1) hlt, hw, hlt]
    · simp [observeHigh_too_long (Nat.ne_of_gt h1) hge, hge]
  · rw [observe_on_low hw]
    by_cases hlen : c.high = cfg.shortTicks ∨ c.high = cfg.longTicks
    · simp [observeLow_ends_pulse (Nat.ne_of_gt h1) hlen, endPulse, hw, hlen]
    · simp [observeLow_bad_pulse (Nat.ne_of_gt h1) hlen, hlen]
  · rw [(observe_driven_cases hw hl).resolve_left hoff]
    exact ⟨rfl, rfl⟩
  · rw [observe_noMeaning hw hl]
    rfl

end Sys2Proof.Machine
end

section
/-! What the chain decodes (43_wire_protocol_observer.md R207, R208): a symbol period by period, a low run, and a burst
of symbols with its latch. -/

namespace Sys2Proof.Machine

/-- The chain after the periods of a waveform, one by one. -/
def observeAll (cfg : Config) (levels : List Line) (c : Chain) : Chain :=
  levels.foldl (fun c level => observe cfg level c) c

@[simp] theorem observeAll_nil (cfg : Config) (c : Chain) : observeAll cfg [] c = c := rfl

theorem observeAll_cons (cfg : Config) (level : Line) (levels : List Line) (c : Chain) :
    observeAll cfg (level :: levels) c = observeAll cfg levels (observe cfg level c) := rfl

theorem observeAll_append (cfg : Config) (first rest : List Line) (c : Chain) :
    observeAll cfg (first ++ rest) c = observeAll cfg rest (observeAll cfg first c) := List.foldl_append

/-! ### One symbol -/

/-- The chain `c` after the periods `0` to `k` of a symbol that carries `v` (R202, R207 (2)). -/
def symbolSeen (cfg : Config) (v : Bool) (k : Nat) (c : Chain) : Chain :=
  if k < hiTicks cfg v then { c with high := k + 1, low := 0 }
  else { c with high := 0, low := k + 1 - hiTicks cfg v, pulse := hiTicks cfg v, bits := c.bits ++ [v] }

section Symbol

variable {cfg : Config} (hv : cfg.Valid) {c : Chain} {v : Bool} {k : Nat}

theorem symbolSeen_high (hk : k < hiTicks cfg v) : symbolSeen cfg v k c = { c with high := k + 1, low := 0 } :=
  if_pos hk

theorem symbolSeen_low (hk : hiTicks cfg v ≤ k) : symbolSeen cfg v k c =
    { c with high := 0, low := k + 1 - hiTicks cfg v, pulse := hiTicks cfg v, bits := c.bits ++ [v] } :=
  if_neg (Nat.not_lt.2 hk)

theorem symbolSeen_watch (cfg : Config) (v : Bool) (k : Nat) (c : Chain) :
    (symbolSeen cfg v k c).watch = c.watch := by
  unfold symbolSeen
  split <;> rfl

theorem symbolSeen_shown (cfg : Config) (v : Bool) (k : Nat) (c : Chain) :
    (symbolSeen cfg v k c).shown = c.shown := by
  unfold symbolSeen
  split <;> rfl

theorem symbolSeen_drawn (cfg : Config) (v : Bool) (k : Nat) (c : Chain) :
    (symbolSeen cfg v k c).drawn = c.drawn := by
  unfold symbolSeen
  split <;> rfl

include hv

/-- The lengths of the two pulses (00_scope.md R9). -/
theorem hiTicks_bounds (v : Bool) : 1 ≤ hiTicks cfg v ∧ hiTicks cfg v ≤ cfg.longTicks ∧
    hiTicks cfg v < cfg.symTicks ∧ cfg.symTicks < cfg.latchTicks := by
  obtain ⟨-, -, hsum, hshort, hlt, -, hlatch, -⟩ := hv
  cases v <;> simp only [hiTicks, Bool.false_eq_true, if_true, if_false] <;> omega

/-- A pulse of a symbol is decoded as the symbol's bit (R207 (2)). -/
theorem decide_hiTicks (v : Bool) : decide (cfg.symTicks < 2 * hiTicks cfg v) = v := by
  obtain ⟨-, -, hsum, -, hlt, -⟩ := hv
  cases v
  · exact decide_eq_false (by simp only [hiTicks, Bool.false_eq_true, if_false]; omega)
  · exact decide_eq_true (by simp only [hiTicks, if_true]; omega)

/-- Inside a symbol no latch comes. -/
theorem symbolSeen_low_lt (hk : k < cfg.symTicks) : (symbolSeen cfg v k c).low < cfg.latchTicks := by
  obtain ⟨h1, -, -, hlatch⟩ := hiTicks_bounds hv v
  unfold symbolSeen
  split
  · exact Nat.zero_lt_of_lt hlatch
  · simp only
    omega

/-- The first period of a symbol, where a run of `H` may open. -/
theorem observe_symbol_opens (hw : c.watch = .on) (h0 : c.high = 0)
    (hopen : c.bits = [] ∨ symbolExact cfg c = true) :
    observe cfg (symbolLevel cfg v 0) c = symbolSeen cfg v 0 c := by
  obtain ⟨h1, hlong, -, -⟩ := hiTicks_bounds hv v
  rw [symbolLevel, if_pos (Nat.zero_lt_of_lt h1), observe_on_high hw, observeHigh_opens h0 hopen (h1.trans hlong),
    symbolSeen_high h1]

/-- Every later period of a symbol. -/
theorem observe_symbol_goes_on (hw : c.watch = .on) (hk : k + 1 < cfg.symTicks) :
    observe cfg (symbolLevel cfg v (k + 1)) (symbolSeen cfg v k c) = symbolSeen cfg v (k + 1) c := by
  have hwatch := (symbolSeen_watch cfg v k c).trans hw
  obtain ⟨h1, hlong, hsym, hlatch⟩ := hiTicks_bounds hv v
  rcases Nat.lt_trichotomy (k + 1) (hiTicks cfg v) with hlt | heq | hgt
  · -- the pulse goes on
    rw [symbolLevel, if_pos hlt, observe_on_high hwatch, symbolSeen_high (Nat.lt_of_succ_lt hlt),
      symbolSeen_high hlt, observeHigh_goes_on k.succ_ne_zero (hlt.trans_le hlong)]
  · -- the pulse has ended
    have hlen : k + 1 = cfg.shortTicks ∨ k + 1 = cfg.longTicks := by
      rw [heq]
      cases v
      exacts [.inl rfl, .inr rfl]
    rw [symbolLevel, if_neg heq.not_lt, observe_on_low hwatch, symbolSeen_high (by omega),
      symbolSeen_low heq.ge, observeLow_ends_pulse k.succ_ne_zero hlen,
      lowPeriod_no_latch (by simp only [endPulse]; omega)]
    simp [endPulse, heq, decide_hiTicks hv]
  · -- the low goes on
    rw [symbolLevel, if_neg hgt.not_gt, observe_on_low hwatch, symbolSeen_low (by omega), symbolSeen_low hgt.le,
      observeLow_goes_on rfl, lowPeriod_no_latch (by simp only; omega),
      show k + 1 - hiTicks cfg v + 1 = k + 1 + 1 - hiTicks cfg v by omega]

/-- A symbol seen to its last period is exact: the next one may open. -/
theorem symbolSeen_last (v : Bool) (c : Chain) : (symbolSeen cfg v (cfg.symTicks - 1) c).high = 0 ∧
    symbolExact cfg (symbolSeen cfg v (cfg.symTicks - 1) c) = true ∧
    (symbolSeen cfg v (cfg.symTicks - 1) c).bits = c.bits ++ [v] := by
  obtain ⟨h1, -, hsym, -⟩ := hiTicks_bounds hv v
  rw [symbolSeen_low (by omega)]
  exact ⟨rfl, (symbolExact_iff _ _).2 (.inl (by simp only; omega)), rfl⟩

/-- A whole symbol. -/
theorem observeAll_symbolLine (hw : c.watch = .on) (h0 : c.high = 0)
    (hopen : c.bits = [] ∨ symbolExact cfg c = true) :
    observeAll cfg (symbolLine cfg v) c = symbolSeen cfg v (cfg.symTicks - 1) c := by
  have hperiods {k : Nat} (hk : k < cfg.symTicks) :
      observeAll cfg ((List.range (k + 1)).map (symbolLevel cfg v)) c =
        symbolSeen cfg v k c := by
    induction k with
    | zero => exact observe_symbol_opens hv hw h0 hopen
    | succ k ih =>
      rw [List.range_succ, List.map_append, observeAll_append, ih (Nat.lt_of_succ_lt hk)]
      exact observe_symbol_goes_on hv hw hk
  obtain ⟨h1, -, hsym, -⟩ := hiTicks_bounds hv v
  have hlast := hperiods (k := cfg.symTicks - 1) (by omega)
  rwa [Nat.sub_add_cancel (by omega)] at hlast

end Symbol

/-! ### A burst -/

theorem showBurst_nil (shown : List Pixel) : showBurst [] shown = shown := by
  cases shown <;> rfl

/-- A latch of no bits shows no new colour (R208). -/
theorem lowPeriod_between_bursts {cfg : Config} {c : Chain} (h : c.bits = []) :
    lowPeriod cfg c = { c with low := c.low + 1 } := by
  by_cases hnow : c.low + 1 = cfg.latchTicks
  · rw [lowPeriod_latches hnow, h, showBurst_nil, ← h]
  · exact lowPeriod_no_latch hnow

/-- After whole periods of low or whole symbols: the chain observes, the burst in progress is `burst`, it shows `shown`
and has drawn `drawn` free colours, and a symbol may open. -/
structure Decoded (cfg : Config) (burst : List Bool) (shown : List Pixel) (drawn : Nat) (c : Chain) : Prop where
  watch : c.watch = .on
  high : c.high = 0
  bits : c.bits = burst
  opens : burst = [] ∨ (symbolExact cfg c = true ∧ c.low < cfg.latchTicks)
  shown : c.shown = shown
  drawn : c.drawn = drawn

section Burst

variable {cfg : Config} {c : Chain} {burst : List Bool} {shown : List Pixel} {drawn : Nat}

/-- One more symbol is one more bit. -/
theorem Decoded.symbol (hv : cfg.Valid) (h : Decoded cfg burst shown drawn c) (v : Bool) :
    Decoded cfg (burst ++ [v]) shown drawn (observeAll cfg (symbolLine cfg v) c) := by
  obtain ⟨hw, h0, rfl, hopen, rfl, rfl⟩ := h
  obtain ⟨-, -, hsym, -⟩ := hiTicks_bounds hv v
  obtain ⟨hhigh, hexact, hbits⟩ := symbolSeen_last hv v c
  have hlt : (symbolSeen cfg v (cfg.symTicks - 1) c).low < cfg.latchTicks := symbolSeen_low_lt hv (by omega)
  rw [observeAll_symbolLine hv hw h0 (hopen.imp_right And.left)]
  exact ⟨(symbolSeen_watch ..).trans hw, hhigh, hbits, .inr ⟨hexact, hlt⟩, symbolSeen_shown .., symbolSeen_drawn ..⟩

/-- The symbols of a bit list are decoded as that list (R207). -/
theorem Decoded.symbols (hv : cfg.Valid) (h : Decoded cfg burst shown drawn c) (bits : List Bool) :
    Decoded cfg (burst ++ bits) shown drawn
      (observeAll cfg (bits.flatMap (symbolLine cfg)) c) := by
  induction bits generalizing burst c with
  | nil => simpa using h
  | cons v bits ih =>
    rw [List.flatMap_cons, observeAll_append, List.append_cons]
    exact ih (h.symbol hv v)

/-- Between bursts a low period shows nothing new. -/
theorem Decoded.low (h : Decoded cfg [] shown drawn c) : Decoded cfg [] shown drawn (observe cfg .l c) := by
  obtain ⟨hw, h0, hbits, -, rfl, rfl⟩ := h
  rw [observe_on_low hw, observeLow_goes_on h0, lowPeriod_between_bursts hbits]
  exact ⟨hw, h0, hbits, .inl rfl, rfl, rfl⟩

theorem Decoded.lows (h : Decoded cfg [] shown drawn c) (len : Nat) : Decoded cfg [] shown drawn
    (observeAll cfg (List.replicate len .l) c) := by
  induction len generalizing c with
  | zero => exact h
  | succ len ih => exact ih h.low

/-- A low run that reaches `LATCH_TICKS` latches the burst, once (R208; log entry 12). -/
theorem latches_within (hw : c.watch = .on) (h0 : c.high = 0) {len : Nat} (hlt : c.low < cfg.latchTicks)
    (hle : cfg.latchTicks ≤ c.low + len) : Decoded cfg [] (showBurst c.bits c.shown) c.drawn
      (observeAll cfg (List.replicate len .l) c) := by
  induction len generalizing c with
  | zero => omega
  | succ len ih =>
    rw [List.replicate_succ, observeAll_cons, observe_on_low hw, observeLow_goes_on h0]
    by_cases hnow : c.low + 1 = cfg.latchTicks
    · rw [lowPeriod_latches hnow]
      refine Decoded.lows ?_ len
      exact ⟨hw, h0, rfl, .inl rfl, rfl, rfl⟩
    · rw [lowPeriod_no_latch hnow]
      exact ih (c := { c with low := c.low + 1 }) hw h0 (by simp only; omega) (by simp only; omega)

/-- A gap of `LATCH_TICKS` after a burst shows it. -/
theorem Decoded.latch (h : Decoded cfg burst shown drawn c) : Decoded cfg [] (showBurst burst shown) drawn
    (observeAll cfg (List.replicate cfg.latchTicks .l) c) := by
  rcases h.opens with rfl | ⟨-, hlt⟩
  · rw [showBurst_nil]
    exact h.lows _
  · obtain ⟨hw, h0, rfl, -, rfl, rfl⟩ := h
    exact latches_within hw h0 hlt (Nat.le_add_left ..)

/-- Any symbols and then the gap. -/
theorem Decoded.symbols_latch (hv : cfg.Valid) (h : Decoded cfg [] shown drawn c) (bits : List Bool) :
    Decoded cfg [] (showBurst bits shown) drawn
      (observeAll cfg (bits.flatMap (symbolLine cfg) ++ List.replicate cfg.latchTicks .l) c) := by
  rw [observeAll_append]
  exact (h.symbols hv bits).latch

end Burst

/-- Settles O52: symbol by symbol the burst grows by the symbol's bit, and the gap latches it. -/
theorem chainDecodesSymbols : Obligations.ChainDecodesSymbols := by
  intro cfg c bits hv hw h0 hbits
  have h : Decoded cfg [] c.shown c.drawn c := ⟨hw, h0, hbits, .inl rfl, rfl, rfl⟩
  obtain ⟨hwatch, -, hburst, -, hshown, hdrawn⟩ := h.symbols_latch hv bits
  exact ⟨_, rfl, hwatch, hburst, hshown, hdrawn⟩

/-! ### What a burst shows -/

/-- The 24 bits of an LED as the three bytes of its colour (R208). -/
theorem bitsToPixel_take (bits : List Bool) : bitsToPixel (bits.take 24) =
    { g := bitsToByte (bits.take 8)
      r := bitsToByte ((bits.drop 8).take 8)
      b := bitsToByte ((bits.drop 16).take 8) } := by
  simp [bitsToPixel, List.take_take, List.drop_take]

/-- Settles O51: the first LED takes 24 bits, and the others see the rest as their burst. -/
theorem burstShown : Obligations.BurstShown := by
  intro bits shown
  induction shown generalizing bits with
  | nil => simp
  | cons colour leds ih =>
    intro k hk
    unfold showBurst
    split
    next hfull =>
      cases k with
      | zero => simpa [hfull] using bitsToPixel_take bits
      | succ k =>
        rw [List.getElem?_cons_succ, ih _ k (Nat.lt_of_succ_lt_succ hk), List.getElem?_cons_succ]
        have hbound : 24 * k + 24 ≤ (bits.drop 24).length ↔ 24 * (k + 1) + 24 ≤ bits.length := by
          rw [List.length_drop]
          omega
        have hdrop (d : Nat) : (bits.drop 24).drop (24 * k + d) = bits.drop (24 * (k + 1) + d) := by
          rw [List.drop_drop]
          congr 1
          omega
        have hdrop0 := hdrop 0
        rw [Nat.add_zero, Nat.add_zero] at hdrop0
        simp only [hbound, hdrop, hdrop0]
    next hshort => rw [if_neg (by omega)]

end Sys2Proof.Machine
end

section
/-! The observer keeps pace with the engine (43_wire_protocol_observer.md R207, R211; 20_memory.md R77): edge by edge
the chain sees the symbol on the wire, or one more low period. -/

namespace Sys2Proof.Machine

/-- The chain sees the period that follows the edge. -/
theorem step_chain {s t : State} (h : step s = .next t) : t.chain = observe t.cfg (line t) s.chain := by
  obtain ⟨-, u, hu, rfl⟩ := step_eq_next h
  obtain ⟨-, -, -, -, -, -, hchain⟩ := clockEdge_around hu
  rw [afterEdge_chain, hchain]
  rfl

/-! ### The symbol on the wire from edge to edge -/

theorem step_pix_of_frame {s t : State} (hm : s.mode = .frame) (hr : s.pins.rst = false) (h : step s = .next t) :
    t.pix = s.pix := by
  obtain ⟨-, u, hu, rfl⟩ := step_eq_next h
  rw [clockEdge_of_frame hr hm] at hu
  rw [afterEdge_pix, frameArm_pix hu]
  rfl

/-- R164, R165: a byte counts as loaded when the serializer takes it, and the converter changes nothing of that. -/
theorem step_bytesLoaded {s t : State} (h : s.Inv) (hsend : SendsFrame s) (hm : s.mode = .frame)
    (hr : s.pins.rst = false) (hstep : step s = .next t) :
    (Loads s → bytesLoaded t = bytesLoaded s + 1) ∧ (¬ Loads s → bytesLoaded t = bytesLoaded s) := by
  obtain ⟨hle, -⟩ := hsend hm
  obtain ⟨q, hload, hkeep, hpush, hfull⟩ := converterEdge s t h hm hr hstep
  have hpos : bytesLoaded t = bytesPushed s - q.length := by
    unfold bytesLoaded
    by_cases hroom : s.cell < s.cfg.n ∧ q.length < s.cfg.qDepth
    · obtain ⟨hq, hp⟩ := hpush hroom
      rw [hq, hp, List.length_append, List.length_singleton, Nat.add_sub_add_right]
    · obtain ⟨hq, hp⟩ := hfull hroom
      rw [hq, hp]
  rw [hpos, bytesLoaded]
  refine ⟨fun hl => ?_, fun hl => by rw [hkeep hl]⟩
  have hq : 0 < s.q.length := List.length_pos_iff.2 hl.2
  rw [hload hl, List.length_tail]
  omega

/-- R170: the symbol on the wire carries the frame's bit of its number. -/
theorem msb_sr_eq_frameBit {s : State} (h : s.Inv) (hsend : SendsFrame s) (hm : s.mode = .frame)
    (hs : s.shifting = true) : s.sr.msb = frameBit s.pix (symbolIndex s) := by
  obtain ⟨-, -, -, -, -, -, ⟨-, hw, -⟩, -⟩ := h
  obtain ⟨-, -, hon, -⟩ := hsend hm
  obtain ⟨-, hsr⟩ := hon hs
  obtain ⟨h1, h8, -⟩ := hw hs
  rw [hsr, msb_shiftLeft_frameByte _ _ h1 h8, symbolIndex]

/-- What a `FRAME` edge does to the symbol on the wire and its number (R163, R164, R166, R171). -/
inductive FrameEdge (s t : State) : Prop
  | within (hs : s.shifting = true) (hm : t.mode = .frame) (ht : t.shifting = true) (htcnt : t.tcnt = s.tcnt + 1)
      (hlt : s.tcnt + 1 < s.cfg.symTicks) (hnum : symbolIndex t = symbolIndex s)
  | next (hend : SymbolEnds s) (hm : t.mode = .frame) (ht : t.shifting = true) (htcnt : t.tcnt = 0)
      (hnum : symbolIndex t = symbolIndex s + 1)
  | first (hs : s.shifting = false) (hm : t.mode = .frame) (ht : t.shifting = true) (htcnt : t.tcnt = 0)
      (hnum : symbolIndex t = 0)
  | last (hend : SymbolEnds s) (hm : t.mode = .gap) (ht : t.shifting = false) (hgap : t.gapCnt = s.cfg.latchTicks)
  | before (hs : s.shifting = false) (hm : t.mode = .frame) (ht : t.shifting = false)

theorem frameEdge_of_step {s t : State} (h : s.Inv) (hsend : SendsFrame s) (hfed : QueueFed s)
    (hm : s.mode = .frame) (hr : s.pins.rst = false) (hstep : step s = .next t) : FrameEdge s t := by
  obtain ⟨hw, -, hlast⟩ := inFrame_of_queueFed h hsend hfed hm
  obtain ⟨hload, hkeep⟩ := step_bytesLoaded h hsend hm hr hstep
  obtain ⟨-, -, hon, hoff⟩ := hsend hm
  obtain ⟨⟨hn, -⟩, -, -, -, -, -, ⟨-, -, hle, -⟩, -⟩ := id h
  obtain ⟨u, hu, -, -, -, hwindow, hshift, hloads, hends, -, hrest⟩ := serializerEdge s h hm hr
  cases hu.symm.trans hstep
  rcases serializer_cases hw with ⟨hs, ht, -⟩ | ⟨hsym, hb, -⟩ | ⟨byte, rest, hfree, hq, -⟩ | ⟨hsym, hb, hq, -⟩ |
    ⟨hs, hq, -⟩
  · -- inside a window
    obtain ⟨hmode, hs', htcnt, -, hnbit⟩ := hwindow hs ht
    have hsame := hkeep fun hl => by
      rcases hl.1 with hoff | ⟨⟨-, hend⟩, -⟩
      · simp [hs] at hoff
      · omega
    exact .within hs hmode hs' htcnt (by omega) (by rw [symbolIndex, symbolIndex, hsame, hnbit])
  · -- the next bit of the byte
    obtain ⟨hmode, hs', htcnt, -, hnbit⟩ := hshift hsym hb
    have hsame := hkeep fun hl => by
      rcases hl.1 with hoff | ⟨-, hone⟩
      · simp [hsym.1] at hoff
      · omega
    obtain ⟨-, h8, -⟩ := hw hsym.1
    refine .next hsym hmode hs' htcnt ?_
    rw [symbolIndex, symbolIndex, hsame, hnbit]
    omega
  · -- a byte is loaded
    have hl : Loads s := loads_of_last hfree (by simp [hq])
    obtain ⟨-, -, -, hmode, hs', htcnt, -, hnbit⟩ := hloads hl
    have hnum : symbolIndex t = 8 * bytesLoaded s := by rw [symbolIndex, hload hl, hnbit]; rfl
    cases hs : s.shifting with
    | false => exact .first hs hmode hs' htcnt (by rw [hnum, hoff hs])
    | true =>
      obtain ⟨hsym, hone⟩ := hfree hs
      obtain ⟨h1, -⟩ := hon hs
      refine .next hsym hmode hs' htcnt ?_
      rw [hnum, symbolIndex, hone]
      omega
  · -- the last window ends: the queue was fed, so no byte is left
    have hcell : s.cell = s.cfg.n := hle.eq_of_not_lt fun hlt =>
      (bytesPushed_lt hlt).ne ((hlast hq).1 hsym.1)
    obtain ⟨hmode, hgap, hs', -⟩ := hends ⟨hsym, hb, hq, hcell⟩
    exact .last hsym hmode hs' hgap
  · -- before the first byte is queued
    have h0 := SendsFrame.bytesPushed_eq_zero hsend hm hs hq
    obtain ⟨⟨hs', -⟩, hgo, -⟩ := hrest hs hq
    exact .before hs (hgo (by unfold bytesPushed at h0; omega)) (hs'.trans hs)

/-! ### Inside symbols -/

theorem frameBits_succ (m : Memory) (len : Nat) : frameBits m (len + 1) = frameBits m len ++ [frameBit m len] := by
  simp [frameBits, List.range_succ]

/-- With the frame up to the symbol on the wire decoded, the chain has seen that symbol up to here. -/
def SeesSymbol (s : State) : Prop :=
  ∃ c : Chain, c.watch = .on ∧ c.bits = frameBits s.pix (symbolIndex s) ∧
    s.chain = symbolSeen s.cfg s.sr.msb s.tcnt c

theorem seesSymbol_of_chainInStep {s : State} (h : s.Inv) (hsend : SendsFrame s) (hchain : ChainInStep s)
    (hm : s.mode = .frame) (hs : s.shifting = true) : SeesSymbol s := by
  obtain ⟨⟨-, hon, -⟩, hhigh, hlow⟩ := hchain
  have hbit := msb_sr_eq_frameBit h hsend hm hs
  obtain ⟨-, -, -, -, ⟨hinitd, -⟩, -⟩ := h
  have hw := hon (hinitd (.inl hm))
  rcases Nat.lt_or_ge s.tcnt (hiTicks s.cfg s.sr.msb) with hlt | hge
  · obtain ⟨h1, h2, h3⟩ := hhigh hs hlt
    refine ⟨s.chain, hw, h3, ?_⟩
    rw [symbolSeen_high hlt, ← h1, ← h2]
  · obtain ⟨h1, h2, h3, h4⟩ := hlow hs hge
    refine ⟨{ s.chain with bits := frameBits s.pix (symbolIndex s) }, hw, rfl, ?_⟩
    have hlen : s.tcnt + 1 - hiTicks s.cfg s.sr.msb = s.chain.low := by omega
    rw [symbolSeen_low hge, hlen, ← h1, ← h2, hbit, ← frameBits_succ, ← h4]

/-- A chain that sees the symbol on the wire is in step. -/
theorem SeesSymbol.chainInStep {s : State} (hsees : SeesSymbol s) (h : s.Inv) (hsend : SendsFrame s)
    (hm : s.mode = .frame) (hs : s.shifting = true) : ChainInStep s := by
  have hbit := msb_sr_eq_frameBit h hsend hm hs
  obtain ⟨hv, -, -, -, ⟨hinitd, -⟩, -, ⟨-, hw, -⟩, -⟩ := h
  obtain ⟨-, -, htcnt⟩ := hw hs
  obtain ⟨c, hwatch, hbits, hc⟩ := hsees
  have hi := hinitd (.inl hm)
  have hlow : s.chain.low < s.cfg.latchTicks := hc ▸ symbolSeen_low_lt hv htcnt
  refine ⟨⟨by simp [hi], fun _ => ?_, by simp [hs], by simp [hs], by simp [hm], fun hle => ?_⟩, fun _ hlt => ?_,
    fun _ hge => ?_⟩
  · rw [hc, symbolSeen_watch, hwatch]
  · exact absurd hlow (Nat.not_lt.2 hle)
  · rw [hc, symbolSeen_high hlt]
    exact ⟨rfl, rfl, hbits⟩
  · rw [hc, symbolSeen_low hge, frameBits_succ, ← hbit, ← hbits]
    exact ⟨rfl, rfl, by simp only; omega, rfl⟩

/-- The first period of a symbol, where one may open. -/
theorem seesSymbol_of_opens {c : Chain} {t : State} (hv : t.cfg.Valid) (hw : c.watch = .on) (h0 : c.high = 0)
    (hopen : c.bits = [] ∨ symbolExact t.cfg c = true) (hbits : c.bits = frameBits t.pix (symbolIndex t))
    (htcnt : t.tcnt = 0) (hobs : t.chain = observe t.cfg (symbolLevel t.cfg t.sr.msb t.tcnt) c) : SeesSymbol t :=
  ⟨c, hw, hbits, by rw [hobs, htcnt, observe_symbol_opens hv hw h0 hopen]⟩

/-- The next period of the symbol on the wire. -/
theorem SeesSymbol.within {s t : State} (h : SeesSymbol s) (hv : s.cfg.Valid) (hcfg : t.cfg = s.cfg)
    (hpix : t.pix = s.pix) (hnum : symbolIndex t = symbolIndex s) (hbit : t.sr.msb = s.sr.msb)
    (htcnt : t.tcnt = s.tcnt + 1) (hlt : s.tcnt + 1 < s.cfg.symTicks)
    (hobs : t.chain = observe t.cfg (symbolLevel t.cfg t.sr.msb t.tcnt) s.chain) : SeesSymbol t := by
  obtain ⟨c, hw, hbits, hc⟩ := h
  refine ⟨c, hw, by rw [hpix, hnum, hbits], ?_⟩
  rw [hobs, hc, hcfg, hbit, htcnt, observe_symbol_goes_on hv hw hlt]

/-- At the end of a window the chain has decoded its symbol, which was exact, and no latch has come. -/
theorem decoded_of_symbolEnds {s : State} (h : s.Inv) (hsend : SendsFrame s) (hchain : ChainInStep s)
    (hm : s.mode = .frame) (hend : SymbolEnds s) : s.chain.high = 0 ∧ symbolExact s.cfg s.chain = true ∧
      s.chain.bits = frameBits s.pix (symbolIndex s + 1) ∧ s.chain.low < s.cfg.latchTicks := by
  obtain ⟨c, -, hbits, hc⟩ := seesSymbol_of_chainInStep h hsend hchain hm hend.1
  have hbit := msb_sr_eq_frameBit h hsend hm hend.1
  obtain ⟨-, -, hsym, -⟩ := hiTicks_bounds h.1 s.sr.msb
  obtain ⟨hhigh, hexact, hlast⟩ := symbolSeen_last h.1 s.sr.msb c
  rw [hend.2] at hc
  rw [hc, frameBits_succ, ← hbit, ← hbits]
  exact ⟨hhigh, hexact, hlast, symbolSeen_low_lt h.1 (by omega)⟩

/-! ### Outside symbols -/

/-- An undriven period leaves the chain unobserving (R211). -/
theorem chainInStep_of_undriven {t : State} {c : Chain} (h : t.Inv) (hi : t.initd = false)
    (hc : t.chain = observe t.cfg .z c) : ChainInStep t := by
  obtain ⟨-, -, ⟨hrest, -⟩, -, ⟨hbusy, -⟩, -⟩ := h
  have hmode : ¬ (t.mode = .frame ∨ t.mode = .gap) := fun hm => by simp [hbusy hm] at hi
  obtain ⟨-, hs⟩ := hrest fun hm => hmode (.inl hm)
  rw [ChainInStep, ChainRests, hc]
  exact ⟨⟨fun _ => ⟨rfl, rfl, rfl, rfl⟩, by simp [hi], by simp [hi], by simp [hi], fun hm => absurd (.inr hm) hmode,
    fun _ => rfl⟩, by simp [hs], by simp [hs]⟩

/-- A low period outside symbols: a latch has passed unless a gap makes sure that it comes (R77). -/
theorem chainInStep_of_low {t : State} {c : Chain} (hi : t.initd = true) (hs : t.shifting = false)
    (hw : c.watch = .on) (h0 : c.high = 0) (hc : t.chain = lowPeriod t.cfg c)
    (hrest : t.mode ≠ .gap → t.cfg.latchTicks ≤ c.low)
    (hgap : t.mode = .gap → t.cfg.latchTicks < c.low + 1 + t.gapCnt)
    (hbits : t.cfg.latchTicks ≤ c.low → c.bits = []) : ChainInStep t := by
  have hlow : t.chain.low = c.low + 1 := by rw [hc, lowPeriod_low]
  refine ⟨⟨by simp [hi], fun _ => ?_, fun _ _ => ?_, fun _ _ hm => ?_, fun hm => ?_, fun hle => ?_⟩, by simp [hs],
    by simp [hs]⟩
  · rw [hc, lowPeriod_watch, hw]
  · rw [hc, lowPeriod_high, h0]
  · rw [hlow]
    exact Nat.le_succ_of_le (hrest hm)
  · rw [hlow]
    exact hgap hm
  · rw [hc]
    by_cases hnow : c.low + 1 = t.cfg.latchTicks
    · rw [lowPeriod_latches hnow]
    · rw [lowPeriod_no_latch hnow]
      exact hbits (by omega)

/-! ### One edge -/

section Edge

variable {s t : State} (h : s.Inv) (hstep : step s = .next t)

include h hstep

/-- A successful `INIT` starts the observation with a low run that the gap makes a latch (R141). -/
theorem chainInStep_of_init (hrests : ChainRests s) (hr : s.pins.rst = false) (hi : s.initd = false)
    (hi' : t.initd = true) : ChainInStep t := by
  obtain ⟨hv, -, ⟨hrest, -⟩, -⟩ := id h
  obtain ⟨hoff, -⟩ := hrests
  obtain ⟨hw, -⟩ := hoff hi
  obtain ⟨-, hflags⟩ := flagsSetAndKept s t hstep
  obtain ⟨-, -, -, hset, -⟩ := hflags hr
  obtain ⟨hc, ha⟩ : commandAt s = some .init ∧ s.pins.chanAvail = true := by simpa [hi, hi'] using hset
  obtain ⟨-, hs⟩ := hrest (by simp [mode_eq_idle_of_commandAt hc])
  have hobs := step_chain hstep
  cases (step_of_commandAt hv hc (execInit_claims (s := clearResponse s) hi ha)).symm.trans hstep
  rw [line_of_not_shifting (by exact hs), if_pos (by rfl), observe_off_low hw, observeLow_goes_on rfl] at hobs
  obtain ⟨-, -, -, -, -, -, hlatch, -⟩ := hv
  refine chainInStep_of_low rfl hs rfl rfl hobs (by simp) (fun _ => ?_) fun _ => rfl
  exact Nat.lt_add_of_pos_left Nat.one_pos

/-- In a frame the chain sees the symbol of every period, and after the last one the gap's first low. -/
theorem chainInStep_of_frame (hsend : SendsFrame s) (hfed : QueueFed s) (hchain : ChainInStep s)
    (hm : s.mode = .frame) (hr : s.pins.rst = false) : ChainInStep t := by
  have hinv := stepKeepsInvariant s t h hstep
  obtain ⟨hsend', -⟩ := frameContentKept s t h hsend hfed hstep
  have hcfg := parametersFixed s t hstep
  have hpix := step_pix_of_frame hm hr hstep
  have hobs := step_chain hstep
  obtain ⟨-, -, -, -, ⟨hinitd, -⟩, -⟩ := id h
  obtain ⟨hv', -, -, -, ⟨hinitd', -⟩, -⟩ := id hinv
  obtain ⟨⟨-, hon, hhigh, hlow, -, hlatched⟩, -⟩ := id hchain
  have hi := hinitd (.inl hm)
  replace hon := hon hi
  have hsymbol (hm' : t.mode = .frame) (hs : t.shifting = true) (hsees : t.chain =
      observe t.cfg (symbolLevel t.cfg t.sr.msb t.tcnt) s.chain → SeesSymbol t) : ChainInStep t :=
    (hsees (line_of_shifting (hinitd' (.inl hm')) hs ▸ hobs)).chainInStep hinv hsend' hm' hs
  have hquiet (hi' : t.initd = true) (hs : t.shifting = false) (h0 : s.chain.high = 0) :
      t.chain = lowPeriod t.cfg s.chain := by
    rw [hobs, line_of_not_shifting hs, if_pos hi', observe_on_low hon, observeLow_goes_on h0]
  cases frameEdge_of_step h hsend hfed hm hr hstep with
  | within hs hm' hs' htcnt hlt hnum =>
    have hbit : t.sr.msb = s.sr.msb := by
      rw [msb_sr_eq_frameBit h hsend hm hs, msb_sr_eq_frameBit hinv hsend' hm' hs', hnum, hpix]
    have hseen := seesSymbol_of_chainInStep h hsend hchain hm hs
    exact hsymbol hm' hs' (hseen.within h.1 hcfg hpix hnum hbit htcnt hlt)
  | next hend hm' hs' htcnt hnum =>
    obtain ⟨h0, hexact, hbits, -⟩ := decoded_of_symbolEnds h hsend hchain hm hend
    rw [← hnum, ← hpix] at hbits
    exact hsymbol hm' hs' (seesSymbol_of_opens hv' hon h0 (.inr (hcfg ▸ hexact)) hbits htcnt)
  | first hs hm' hs' htcnt hnum =>
    have hnone := hlatched (hlow hi hs (by simp [hm]))
    have hbits : s.chain.bits = frameBits t.pix (symbolIndex t) := by rw [hnone, hnum]; rfl
    exact hsymbol hm' hs' (seesSymbol_of_opens hv' hon (hhigh hi hs) (.inl hnone) hbits htcnt)
  | last hend hm' hs' hgap =>
    obtain ⟨h0, -, -, hlt⟩ := decoded_of_symbolEnds h hsend hchain hm hend
    have hi' := hinitd' (.inr hm')
    refine chainInStep_of_low hi' hs' hon h0 (hquiet hi' hs' h0) (absurd hm') (fun _ => ?_) fun hle => ?_
    · rw [hgap, hcfg]
      omega
    · rw [hcfg] at hle
      omega
  | before hs hm' hs' =>
    have h0 := hhigh hi hs
    have hi' := hinitd' (.inl hm')
    refine chainInStep_of_low hi' hs' hon h0 (hquiet hi' hs' h0) (fun _ => ?_) (by simp [hm']) fun hle => ?_
    · rw [hcfg]
      exact hlow hi hs (by simp [hm])
    · exact hlatched (hcfg ▸ hle)

/-- Outside a frame no edge starts a symbol: a `WRITE` starts with nothing on the wire (R144). -/
theorem step_not_shifting (hm : s.mode ≠ .frame) : t.shifting = false := by
  obtain ⟨hv, -, ⟨hrest, -⟩, -⟩ := id h
  obtain ⟨-, hs⟩ := hrest hm
  by_cases hm' : t.mode = .frame
  · obtain ⟨hc, hi⟩ : commandAt s = some .write ∧ s.initd = true := by
      obtain ⟨-, u, hedge, rfl⟩ := edgeCase_of_step hstep
      exact (hedge.frame_cases hm').resolve_left hm
    cases (step_of_commandAt hv hc (execWrite_starts (s := clearResponse s) hi)).symm.trans hstep
    exact hs
  · obtain ⟨-, -, ⟨hrest', -⟩, -⟩ := stepKeepsInvariant s t h hstep
    exact (hrest' hm').2

/-- With the channel claimed a gap comes only from a gap or a frame, and it counts down to its end (R161, R167). -/
theorem step_gapCnt (hsend : SendsFrame s) (hr : s.pins.rst = false) (hi : s.initd = true) (hm : s.mode ≠ .frame) :
    (t.mode = .gap → s.mode = .gap ∧ t.gapCnt + 1 = s.gapCnt) ∧ (s.mode = .gap → t.mode ≠ .gap → s.gapCnt = 1) := by
  have hnext := modeTransitions s t h hsend hstep
  obtain ⟨-, -, -, ⟨-, hgap⟩, -⟩ := id h
  by_cases hg : s.mode = .gap
  · obtain ⟨h1, -⟩ := hgap hg
    have hstart : InGap s.gapCnt 0 s := ⟨h, hi, rfl, hg.trans (if_pos h1).symm, by simp⟩
    obtain ⟨v, hv, hcount⟩ := hstart.step h1 hr
    cases hv.symm.trans hstep
    rw [nextMode_of_gap hr hg] at hnext
    refine ⟨fun _ => ⟨hg, hcount.count⟩, fun _ hne => by_contra fun hmore => hne ?_⟩
    rw [hnext, if_neg hmore]
  · refine ⟨fun hg' => absurd (hnext.symm.trans hg') ?_, fun hg' => absurd hg' hg⟩
    cases hmode : s.mode with
    | idle =>
      simp only [nextMode, hr, hmode, hi, Bool.true_eq_false, Bool.false_eq_true, false_and, and_false, if_false]
      split_ifs <;> simp
    | clr =>
      rw [nextMode_of_clr hr hmode]
      split <;> simp
    | frame => exact absurd hmode hm
    | gap => exact absurd hmode hg

/-- Between frames the chain sees one more low period of a driven wire. -/
theorem chainInStep_of_still (hsend : SendsFrame s) (hrests : ChainRests s) (hr : s.pins.rst = false)
    (hi : s.initd = true) (hi' : t.initd = true) (hm : s.mode ≠ .frame) : ChainInStep t := by
  obtain ⟨-, -, ⟨hrest, -⟩, -⟩ := id h
  obtain ⟨-, hs⟩ := hrest hm
  obtain ⟨-, hon, hhigh, hlow, hgap, hlatched⟩ := hrests
  have hs' := step_not_shifting h hstep hm
  have hcfg := parametersFixed s t hstep
  have hobs := step_chain hstep
  obtain ⟨hcount, hlast⟩ := step_gapCnt h hstep hsend hr hi hm
  rw [line_of_not_shifting hs', if_pos hi', observe_on_low (hon hi), observeLow_goes_on (hhigh hi hs)] at hobs
  refine chainInStep_of_low hi' hs' (hon hi) (hhigh hi hs) hobs (fun hm' => ?_) (fun hm' => ?_) fun hle => ?_
  · rw [hcfg]
    by_cases hg : s.mode = .gap
    · have hbound := hgap hg
      rw [hlast hg hm'] at hbound
      exact Nat.le_of_lt_succ hbound
    · exact hlow hi hs hg
  · obtain ⟨hg, hc⟩ := hcount hm'
    have hbound := hgap hg
    rw [hcfg]
    omega
  · exact hlatched (hcfg ▸ hle)

end Edge

/-- Settles O32: the chain sees an undriven period, the start of a gap, the period of a frame's symbol, or one more low
period, and each keeps it in step. -/
theorem chainKeepsPace : Obligations.ChainKeepsPace := by
  intro s t h hsend hfed hchain hstep
  have hinv := stepKeepsInvariant s t h hstep
  obtain ⟨hreset, -⟩ := flagsSetAndKept s t hstep
  cases hi' : t.initd with
  | false =>
    have hobs := step_chain hstep
    rw [line, doutEn, hi'] at hobs
    exact chainInStep_of_undriven hinv hi' hobs
  | true =>
    have hr : s.pins.rst = false := Bool.eq_false_iff.2 fun hr => by simp [(hreset hr).1] at hi'
    cases hi : s.initd with
    | false => exact chainInStep_of_init h hstep hchain.1 hr hi hi'
    | true =>
      by_cases hm : s.mode = .frame
      · exact chainInStep_of_frame h hstep hsend hfed hchain hm hr
      · exact chainInStep_of_still h hstep hsend hchain.1 hr hi hi' hm

end Sys2Proof.Machine
end

section
/-! End to end (43_wire_protocol_observer.md R209): the chain decodes the waveform of a `WRITE`, and what it shows after
the gap is the store. -/

namespace Sys2Proof.Machine

/-! ### The chain along a run -/

/-- The last edge of a run. -/
theorem run_last {k : Nat} {s u : State} (h : run (k + 1) s = .next u) :
    ∃ v, run k s = .next v ∧ step v = .next u := by
  induction k generalizing s with
  | zero =>
    obtain ⟨t, ht, hu⟩ := onNext_eq_next h
    cases hu
    exact ⟨s, rfl, ht⟩
  | succ k ih =>
    obtain ⟨t, ht, hu⟩ := onNext_eq_next h
    rw [run_succ ht]
    exact ih hu

theorem run_cfg {k : Nat} {s u : State} (h : run k s = .next u) : u.cfg = s.cfg := by
  induction k generalizing u with
  | zero => cases h; rfl
  | succ k ih =>
    obtain ⟨v, hv, hu⟩ := run_last h
    exact (parametersFixed v u hu).trans (ih hv)

/-- Over a run the chain sees the levels of its periods in turn. -/
theorem run_chain {s u : State} {level : Nat → Line} {k : Nat} (hu : run k s = .next u)
    (hline : ∀ j v, j < k → run (j + 1) s = .next v → line v = level j) :
    u.chain = observeAll s.cfg ((List.range k).map level) s.chain := by
  induction k generalizing u with
  | zero => cases hu; rfl
  | succ k ih =>
    obtain ⟨v, hv, hstep⟩ := run_last hu
    rw [List.range_succ, List.map_append, observeAll_append,
      ← ih hv fun j w hj => hline j w (Nat.lt_succ_of_lt hj), step_chain hstep, run_cfg hu,
      hline k u k.lt_succ_self hu]
    rfl

/-! ### The bits of the frame, read as bytes -/

theorem bitsToNat_concat (bits : List Bool) (b : Bool) : bitsToNat (bits ++ [b]) = 2 * bitsToNat bits + b.toNat := by
  simp [bitsToNat]

/-- The first `k` bits of a byte, most significant first, are its upper part (20_memory.md R69). -/
theorem bitsToNat_msb_first (b : Byte) {k : Nat} (hk : k ≤ 8) :
    bitsToNat ((List.range k).map fun j => b.getLsbD (7 - j)) = b.toNat / 2 ^ (8 - k) := by
  induction k with
  | zero => exact (Nat.div_eq_of_lt b.isLt).symm
  | succ k ih =>
    have hpow : 8 - k = 7 - k + 1 := by omega
    rw [List.range_succ, List.map_append, List.map_singleton, bitsToNat_concat, ih (Nat.le_of_succ_le hk), hpow,
      Nat.pow_succ, ← Nat.div_div_eq_div_mul, ← BitVec.testBit_toNat, Nat.toNat_testBit, Nat.div_add_mod,
      Nat.add_sub_add_right 7 1 k]

theorem bitsToByte_msb_first (b : Byte) : bitsToByte ((List.range 8).map fun j => b.getLsbD (7 - j)) = b := by
  rw [bitsToByte, bitsToNat_msb_first b le_rfl, Nat.sub_self, Nat.pow_zero, Nat.div_one, BitVec.ofNat_toNat]
  rfl

/-- Eight bits of the frame from bit `8 i` on are its byte `i` (20_memory.md R70). -/
theorem bitsToByte_frameBits (m : Memory) {i len : Nat} (hle : 8 * i + 8 ≤ len) :
    bitsToByte (((frameBits m len).drop (8 * i)).take 8) = frameByte m i := by
  have hbits : ((frameBits m len).drop (8 * i)).take 8 =
      (List.range 8).map fun j => (frameByte m i).getLsbD (7 - j) := by
    refine List.ext_getElem (by simp [frameBits]; omega) fun j hj hj' => ?_
    have hlt : j < 8 := by simpa using hj'
    simp [frameBits, frameBit, Nat.mul_add_div, Nat.div_eq_of_lt hlt, Nat.mod_eq_of_lt hlt]
  rw [hbits, bitsToByte_msb_first]

/-- The three bytes of cell `k` in the frame: green, red, blue (20_memory.md R68). -/
theorem frameByte_cell (m : Memory) (k : Nat) : frameByte m (3 * k) = (readPixel m k).g ∧
    frameByte m (3 * k + 1) = (readPixel m k).r ∧ frameByte m (3 * k + 2) = (readPixel m k).b := by
  refine ⟨?_, ?_, ?_⟩ <;> simp [frameByte, wireChannel, Pixel.channel, Nat.mul_add_div]

/-- R208, R209: a chain that shows the burst of a frame shows its store. -/
theorem showBurst_frameBits (m : Memory) (n : Nat) (shown : List Pixel) {k : Nat} (hk : k < shown.length) :
    (showBurst (frameBits m (24 * n)) shown)[k]? = if k < n then some (readPixel m k) else shown[k]? := by
  rw [burstShown _ _ _ hk]
  have hlen : (frameBits m (24 * n)).length = 24 * n := by simp [frameBits]
  rw [hlen]
  by_cases hlt : k < n
  · obtain ⟨hg, hr, hb⟩ := frameByte_cell m k
    have hbyte (i : Nat) (hi : i < 3) := bitsToByte_frameBits m (i := 3 * k + i) (len := 24 * n) (by omega)
    have h0 := hbyte 0 (by decide)
    have h1 := hbyte 1 (by decide)
    have h2 := hbyte 2 (by decide)
    rw [if_pos (by omega), if_pos hlt]
    simp only [Nat.mul_add, ← Nat.mul_assoc, Nat.add_zero, Nat.reduceMul, hg, hr, hb] at h0 h1 h2
    rw [h0, h1, h2]
  · rw [if_neg (by omega), if_neg hlt]

/-! ### The waveform of a `WRITE` -/

/-- The levels of a `WRITE` up to its response: two low periods, the frame's symbols, the gap and one more. -/
theorem writeLevel_eq_symbols (c : Config) (m : Memory) : (List.range (writeTicks c + 1)).map (writeLevel c m) =
    List.replicate 2 .l ++
      ((frameBits m (24 * c.n)).flatMap (symbolLine c) ++ List.replicate c.latchTicks .l) ++ [.l] := by
  have hlast : writeLevel c m (writeTicks c) = .l := writeLevel_of_le m (Nat.le_add_right ..)
  rw [List.range_succ, List.map_append, ← wireLine_write, List.map_singleton, hlast]
  simp [wireLine, eventLine, List.flatMap_map]

theorem decoded_of_idle {s : State} (h : s.Inv) (hchain : ChainInStep s) (hm : s.mode = .idle) (hi : s.initd = true) :
    Decoded s.cfg [] s.chain.shown s.chain.drawn s.chain := by
  obtain ⟨-, -, ⟨hrest, -⟩, -⟩ := h
  obtain ⟨-, hs⟩ := hrest (by simp [hm])
  obtain ⟨⟨-, hon, hhigh, hlow, -, hlatched⟩, -⟩ := hchain
  exact ⟨hon hi, hhigh hi hs, hlatched (hlow hi hs (by simp [hm])), .inl rfl, rfl, rfl⟩

/-- Settles O53: the chain decodes the frame's symbols between the two low runs, and its burst is the store. -/
theorem shownIsTheStore : Obligations.ShownIsTheStore := by
  intro s h hchain hc hi hr
  have hwave := writeWaveform s h hc hi hr
  obtain ⟨-, u, hu, hrv, -, hstore, -⟩ := writeResponds s h hc hi hr
  refine ⟨u, hu, hrv, hstore, fun k hk => ?_⟩
  have hlevels := run_chain (level := writeLevel s.cfg s.pix) hu fun j v hj hv => by
    obtain ⟨w, hw, hline, -⟩ := hwave j (Nat.le_of_lt_succ hj)
    cases hw.symm.trans hv
    exact hline
  rw [writeLevel_eq_symbols, observeAll_append, observeAll_append] at hlevels
  have hdecoded := (((decoded_of_idle h hchain (mode_eq_idle_of_commandAt hc) hi).lows 2).symbols_latch h.1
    (frameBits s.pix (24 * s.cfg.n))).low
  obtain ⟨-, -, -, -, -, -, -, -, hlen⟩ := h
  rw [run_cfg hu] at hk ⊢
  have hshown : u.chain.shown = showBurst (frameBits s.pix (24 * s.cfg.n)) s.chain.shown := by
    rw [hlevels]
    exact hdecoded.shown
  have hpixel : readPixel u.pix k = readPixel s.pix k := by simp only [readPixel, hstore _]
  rw [hshown, hpixel, showBurst_frameBits _ _ _ (hlen.symm ▸ hk)]

end Sys2Proof.Machine
end

section
/-! The operating modes (60_exceptions.md R232, R236; 70_reset_and_hazards.md R276): READY drives the wire, HALTED is
left only by reset. -/

namespace Sys2Proof.Machine

/-! ### The modes as flags -/

theorem operatingMode_eq_halted_iff (s : State) : operatingMode s = .halted ↔ s.fatal = true := by
  unfold operatingMode
  split_ifs <;> simp_all

theorem operatingMode_eq_ready_iff (s : State) : operatingMode s = .ready ↔ s.fatal = false ∧ s.initd = true := by
  unfold operatingMode
  split_ifs <;> simp_all

theorem operatingMode_eq_uninit_iff (s : State) : operatingMode s = .uninit ↔ s.fatal = false ∧ s.initd = false := by
  unfold operatingMode
  split_ifs <;> simp_all

/-- R41: the wire is driven exactly while the channel is claimed. -/
theorem line_eq_z_iff (s : State) : line s = .z ↔ s.initd = false := by
  unfold line doutEn
  split_ifs <;> simp_all

/-- R232: `FATAL` closes the command port. -/
theorem cmdReady_of_fatal {s : State} (h : s.fatal = true) : cmdReady s = false := by simp [cmdReady, h]

theorem not_accepts_of_fatal {s : State} (h : s.fatal = true) : accepts s = false := by
  simp [accepts, cmdReady_of_fatal h]

/-! ### The halted block -/

/-- `k` edges after the halted state `s` (R276). -/
structure HaltedSince (s : State) (k : Nat) (u : State) : Prop where
  inv : u.Inv
  fatal : u.fatal = true
  store : SameStore s u
  flags : SameFlags s u
  position : SamePosition s u
  path : SameDataPath s u
  answers : 1 ≤ k → u.rspv = false ∧ u.rspd = 0

theorem HaltedSince.start {s : State} (h : s.Inv) (hf : s.fatal = true) : HaltedSince s 0 s :=
  ⟨h, hf, fun _ => rfl, .rfl s, ⟨rfl, rfl, rfl, rfl, rfl⟩, ⟨rfl, rfl, rfl, rfl, rfl⟩, by simp⟩

/-- A halted block is in `IDLE` and accepts nothing, so its edge clears the response and leaves the rest. -/
theorem HaltedSince.step {s u : State} {k : Nat} (h : HaltedSince s k u) (hr : u.pins.rst = false) :
    ∃ v, step u = .next v ∧ HaltedSince s (k + 1) v := by
  obtain ⟨hinv, hf, hstore, hflags, hpos, hpath, -⟩ := h
  obtain ⟨hv, -, -, -, ⟨-, hfatal⟩, -⟩ := id hinv
  obtain ⟨-, hm⟩ := hfatal hf
  have hstep := idleEdgeChangesNothing u hv hm hr (not_accepts_of_fatal hf)
  exact ⟨_, hstep, stepKeepsInvariant u _ hinv hstep, hf, hstore, hflags, hpos, hpath, fun _ => ⟨rfl, rfl⟩⟩

/-- `FATAL` excludes `INITD`, so the wire is undriven. -/
theorem HaltedSince.line_eq {s u : State} {k : Nat} (h : HaltedSince s k u) : line u = .z := by
  obtain ⟨-, -, -, -, ⟨-, hfatal⟩, -⟩ := h.inv
  exact (line_eq_z_iff u).2 (hfatal h.fatal).1

/-- Settles O39: every edge without a reset keeps the block halted as it is. -/
theorem haltedIsStuck : Obligations.HaltedIsStuck := by
  intro s h hf k hr
  obtain ⟨u, hu, hhalt⟩ := run_of_steps (n := 0 + k) (fun _ _ _ h => h.step) (HaltedSince.start h hf) le_rfl hr
  rw [Nat.zero_add] at hhalt
  exact ⟨u, hu, hhalt.store, hhalt.flags, hhalt.position, hhalt.path, cmdReady_of_fatal hhalt.fatal,
    not_accepts_of_fatal hhalt.fatal, hhalt.line_eq, hhalt.answers⟩

/-! ### The modes along a step -/

/-- R140: without a reset UNINIT is left by `INIT` alone, to READY or HALTED by the channel. -/
theorem FlagsAsCommanded.operatingMode_of_uninit {s t : State} (h : FlagsAsCommanded s t)
    (hm : operatingMode s = .uninit) : operatingMode t =
      if commandAt s = some .init then (if s.pins.chanAvail then .ready else .halted) else .uninit := by
  obtain ⟨hf, hi⟩ := (operatingMode_eq_uninit_iff s).1 hm
  obtain ⟨-, -, -, hi', hf'⟩ := h
  by_cases hc : commandAt s = some .init
  · cases ha : s.pins.chanAvail <;> simp [operatingMode, hi', hf', hi, hf, hc, ha]
  · simp [operatingMode, hi', hf', hi, hf, hc]

/-- Without a reset READY and HALTED stay: no command clears a flag, and `INIT` in READY is not fatal (R143). -/
theorem FlagsAsCommanded.operatingMode_kept {s t : State} (h : FlagsAsCommanded s t)
    (hm : operatingMode s ≠ .uninit) : operatingMode t = operatingMode s := by
  obtain ⟨-, -, -, hi', hf'⟩ := h
  cases hmode : operatingMode s with
  | uninit => exact absurd hmode hm
  | ready =>
    obtain ⟨hf, hi⟩ := (operatingMode_eq_ready_iff s).1 hmode
    exact (operatingMode_eq_ready_iff t).2 ⟨by simp [hf', hf, hi], by simp [hi', hi]⟩
  | halted =>
    have hf := (operatingMode_eq_halted_iff s).1 hmode
    exact (operatingMode_eq_halted_iff t).2 (by simp [hf', hf])

/-- Settles O40: a reset edge clears both flags that the mode is read off, and else only the commands set them. -/
theorem operatingModes : Obligations.OperatingModes := by
  intro s t h hstep
  obtain ⟨hreset, hflags⟩ := flagsSetAndKept s t hstep
  obtain ⟨-, -, -, -, ⟨-, hfatal⟩, -⟩ := h
  refine ⟨?_, ?_, fun hm => not_accepts_of_fatal ((operatingMode_eq_halted_iff s).1 hm)⟩
  · rcases hr : s.pins.rst with _ | _
    · have hcmd : FlagsAsCommanded s t := hflags hr
      cases hmode : operatingMode s with
      | uninit => exact hcmd.operatingMode_of_uninit hmode
      | ready => exact (hcmd.operatingMode_kept (by simp [hmode])).trans hmode
      | halted => exact (hcmd.operatingMode_kept (by simp [hmode])).trans hmode
    · obtain ⟨hi, hf, -⟩ := hreset hr
      exact (operatingMode_eq_uninit_iff t).2 ⟨hf, hi⟩
  · rw [operatingMode_eq_ready_iff, Ne, line_eq_z_iff, Bool.not_eq_false]
    exact and_iff_right_of_imp fun hi => Bool.eq_false_iff.2 fun hf => by simp [(hfatal hf).1] at hi

end Sys2Proof.Machine
end

section
/-! The host along a step (70_reset_and_hazards.md R263, R267; 30_encoding.md R101): the offer it holds, the number
of the coming edge, and the directives `RST @e`. -/

namespace Sys2Proof.Machine

/-- R267 (a): an edge that accepts nothing leaves a held offer, word and all, and the script as they are. -/
theorem afterEdge_held {s : State} (hh : s.hold = true) (hv : s.pins.cmdValid = true) :
    (afterEdge false s).hold = true ∧ (afterEdge false s).pins.cmdValid = true ∧
    (afterEdge false s).pins.cmdData = s.pins.cmdData ∧ (afterEdge false s).script = s.script := by
  rw [afterEdge, hostAdvance_held (s := observePeriod s) hh hv]
  exact ⟨rfl, hv, rfl, rfl⟩

/-- Settles O12: the block's part of the edge touches neither the ports nor the host, and the host holds on. -/
theorem offerHeldUntilAccepted : Obligations.OfferHeldUntilAccepted := by
  intro s u hstep hh hv ha
  obtain ⟨-, t, ht, rfl⟩ := step_eq_next hstep
  obtain ⟨-, hpins, hhold, hscript, -⟩ := clockEdge_around ht
  rw [← hhold] at hh
  rw [← hpins] at hv
  rw [ha, ← hpins, ← hscript]
  exact afterEdge_held hh hv

/-- R263: `rst = 1` shuts the command port. -/
theorem not_accepts_of_rst {s : State} (hr : s.pins.rst = true) : accepts s = false := by simp [accepts, hr]

/-- R42: out of a reset edge the port is ready and nothing is answered. -/
theorem reset_step_outputs {s u : State} (h : step s = .next u) (hr : s.pins.rst = true) :
    cmdReady u = true ∧ u.rspv = false := by
  obtain ⟨-, t, ht, rfl⟩ := edgeCase_of_step h
  obtain rfl := ht.eq_resetBlock hr
  exact ⟨rfl, rfl⟩

/-- The host numbers the coming edge after the block's part of this one, by what was there before it. -/
theorem SameAround.nextEdge_eq {s t : State} (h : SameAround s t) : nextEdge t = nextEdge s := by
  obtain ⟨-, hpins, -, -, -, hedge, -⟩ := h
  rw [nextEdge, hpins, hedge, nextEdge]

theorem SameAround.rstDue_eq {s t : State} (h : SameAround s t) : rstDue t = rstDue s := by
  have hnum := h.nextEdge_eq
  obtain ⟨-, -, -, -, hrstAt, hedge, -⟩ := h
  rw [rstDue, hnum, hedge, hrstAt, rstDue]

theorem step_edge {s u : State} (h : step s = .next u) : u.edge = nextEdge s := by
  obtain ⟨-, t, ht, rfl⟩ := step_eq_next h
  exact (afterEdge_edge _ t).trans (clockEdge_around ht).nextEdge_eq

theorem step_rstAt {s u : State} (h : step s = .next u) : u.rstAt = s.rstAt := by
  obtain ⟨-, t, ht, rfl⟩ := step_eq_next h
  obtain ⟨-, -, -, -, hrstAt, -⟩ := clockEdge_around ht
  exact hrstAt

/-- R101: whatever the host drives for the coming edge, a directive that is due raises `rst` there. -/
theorem step_rst_of_rstDue {s u : State} (h : step s = .next u) (hdue : rstDue s = true) : u.pins.rst = true := by
  obtain ⟨-, t, ht, rfl⟩ := step_eq_next h
  have hdue' : rstDue (observePeriod t) = true := (clockEdge_around ht).rstDue_eq.trans hdue
  rw [afterEdge, hostAdvance, driveEdge_pins, hdue', Bool.or_true]

/-- A directive is due where the number moves to the edge that it names. -/
theorem rstDue_of_mem {s : State} (hnum : nextEdge s = s.edge + 1) (h : nextEdge s ∈ s.rstAt) :
    rstDue s = true := by
  rw [hnum] at h
  simp [rstDue, hnum, h]

/-- Settles O56: the number stays while only reset edges have been, and moves on at every other edge. -/
theorem edgesNumberedFromRelease : Obligations.EdgesNumberedFromRelease := by
  intro s u hstep
  refine ⟨fun hr => ⟨not_accepts_of_rst hr, reset_step_outputs hstep hr⟩,
    fun he hr => (step_edge hstep).trans (nextEdge_leading he hr), fun hcount => ?_, fun _ _ => rfl⟩
  have hnum : nextEdge s = s.edge + 1 := nextEdge_numbered fun he => hcount.resolve_left (by omega)
  refine ⟨(step_edge hstep).trans hnum, step_rstAt hstep, fun hmem => ?_⟩
  rw [step_edge hstep] at hmem
  exact step_rst_of_rstDue hstep (rstDue_of_mem hnum hmem)

end Sys2Proof.Machine
end
